-- ==== Sys2Proof/Word.lean ====
section
/-! DEFINITION. The data types of the core: bytes, words, blocks, the 4x4 state matrix and the
round-key schedule (spec/00_scope.md R9 to R11, spec/10_state.md R40). Types only; every operation
on them stands in a file under `Sys2Proof/Machine/`. -/

namespace Sys2Proof

/-- A byte, 8 bits, unsigned (R9). -/
abbrev Byte := BitVec 8

/-- A bus word or a schedule word, 32 bits, unsigned (R9, R13). -/
abbrev Word := BitVec 32

/-- A block `b[0..15]`, index 0 first (R10). -/
abbrev Block := Vector Byte 16

/-- A 256-bit key `k[0..31]`, index 0 first (R10). -/
abbrev KeyBytes := Vector Byte 32

/-- A group of four 32-bit registers holding one 128-bit value (R23 to R26). -/
abbrev Quad := Vector Word 4

/-- The group of eight 32-bit key registers (R22). -/
abbrev KeyWords := Vector Word 8

/-- The state matrix `s[r][c]`: a vector of four rows of four bytes (R11). -/
abbrev StateMatrix := Vector (Vector Byte 4) 4

/-- The round-key schedule `w[0..59]` (R40). A schedule word `[w0, w1, w2, w3]` is kept as its 32-bit
value `{w0, w1, w2, w3}` (R13). -/
abbrev Schedule := Vector Word 60

end Sys2Proof
end

