-- ==== Sys2Proof/Syntax.lean ====
section
/-! DEFINITION. The commands of the core: one constructor per row of the opcode table
(spec/30_encoding.md R82, spec/opcode_table.json). -/

namespace Sys2Proof

/-- A command of the core. Only FINAL has an operand: the byte count `n` of its LEN field (R81). -/
inductive Instr where
  /-- NOP (R180). -/
  | nop
  /-- BEGIN_ENC: open an encrypting session (R181). -/
  | beginEnc
  /-- BEGIN_DEC: open a decrypting session (R182). -/
  | beginDec
  /-- BLOCK: process one full, non-final block (R185). -/
  | block
  /-- FINAL #n: process the last block and end the session (R186). -/
  | final (n : Nat)
  /-- ABORT: end any session without output (R195). -/
  | abort
  /-- CLEAR: return to the reset state (R196). -/
  | clear
  deriving DecidableEq, Repr

end Sys2Proof
end

