-- ==== Sys2Proof/WellFormed.lean ====
section
/-! DEFINITION. Which command terms the encoding can express (spec/30_encoding.md R81). -/

namespace Sys2Proof

/-- LEN is a 4-bit field, so the byte count of FINAL is "a natural number in 0..15" (R81). Every
other command has no operand and is well-formed. -/
def Instr.wf : Instr → Bool
  | .nop => true
  | .beginEnc => true
  | .beginDec => true
  | .block => true
  | .final n => decide (n ≤ 15)
  | .abort => true
  | .clear => true

end Sys2Proof
end

