-- ==== Sys2Proof/Decode.lean ====
section
/-! DEFINITION. The command word: its fields, the total decoder, the encoder, and the opcode table
(spec/30_encoding.md R80 to R85, spec/opcode_table.json). -/

namespace Sys2Proof

/-- Why a word is no command (R83, R84). The engine completes every such word with ERR = CMD. -/
inductive Illegal where
  /-- RSV0 (bits 7:4) or RSV1 (bits 31:12) is not zero. -/
  | reservedField
  /-- The opcode is one of 0x7..0xF. -/
  | reservedOpcode
  /-- LEN is not zero and the opcode is not FINAL. -/
  | lenWithoutFinal
  deriving DecidableEq, Repr

/-- Field OP, bits 3:0 (R80). -/
def fieldOp (v : Word) : BitVec 4 := v.extractLsb' 0 4
/-- Field RSV0, bits 7:4 (R80). -/
def fieldRsv0 (v : Word) : BitVec 4 := v.extractLsb' 4 4
/-- Field LEN, bits 11:8 (R80). -/
def fieldLen (v : Word) : BitVec 4 := v.extractLsb' 8 4
/-- Field RSV1, bits 31:12 (R80). -/
def fieldRsv1 (v : Word) : BitVec 20 := v.extractLsb' 12 20

/-- Operand assembly: LEN zero-extended to a natural number in 0..15 (R81). -/
def operandLen (v : Word) : Nat := (fieldLen v).toNat

/-- The decoder of R83, total on every word: the tests stand in the rule's order. -/
def decode (v : Word) : Except Illegal Instr :=
  if fieldRsv1 v ≠ 0 ∨ fieldRsv0 v ≠ 0 then .error .reservedField
  else if 7 ≤ (fieldOp v).toNat then .error .reservedOpcode
  else if fieldOp v ≠ 4 ∧ operandLen v ≠ 0 then .error .lenWithoutFinal
  else match (fieldOp v).toNat with
    | 0 => .ok .nop
    | 1 => .ok .beginEnc
    | 2 => .ok .beginDec
    | 3 => .ok .block
    | 4 => .ok (.final (operandLen v))
    | 5 => .ok .abort
    | _ => .ok .clear

/-- The opcode of a command (R82). -/
def Instr.opcode : Instr → BitVec 4
  | .nop => 0
  | .beginEnc => 1
  | .beginDec => 2
  | .block => 3
  | .final _ => 4
  | .abort => 5
  | .clear => 6

/-- The LEN field of a command: zero for every command but FINAL (R82). -/
def Instr.len : Instr → BitVec 4
  | .nop => 0
  | .beginEnc => 0
  | .beginDec => 0
  | .block => 0
  | .final n => BitVec.ofNat 4 n
  | .abort => 0
  | .clear => 0

/-- The word of a command: RSV1 = 0, LEN, RSV0 = 0, OP, most significant field first (R80, R82). -/
def encode (i : Instr) : Word := 0#20 ++ i.len ++ 0#4 ++ i.opcode

/-- The mnemonic of a command, as the opcode table spells it (R82). -/
def Instr.mnemonic : Instr → String
  | .nop => "NOP"
  | .beginEnc => "BEGIN_ENC"
  | .beginDec => "BEGIN_DEC"
  | .block => "BLOCK"
  | .final _ => "FINAL"
  | .abort => "ABORT"
  | .clear => "CLEAR"

/-- One row of the opcode table. -/
structure OpcodeRow where
  mnemonic : String
  mtch : Word
  mask : Word
  deriving DecidableEq, Repr

/-- The opcode table (R82, spec/opcode_table.json). -/
def opcodeTable : List OpcodeRow :=
  [ ⟨"NOP", 0x00000000, 0xFFFFFFFF⟩,
    ⟨"BEGIN_ENC", 0x00000001, 0xFFFFFFFF⟩,
    ⟨"BEGIN_DEC", 0x00000002, 0xFFFFFFFF⟩,
    ⟨"BLOCK", 0x00000003, 0xFFFFFFFF⟩,
    ⟨"FINAL", 0x00000004, 0xFFFFF0FF⟩,
    ⟨"ABORT", 0x00000005, 0xFFFFFFFF⟩,
    ⟨"CLEAR", 0x00000006, 0xFFFFFFFF⟩ ]

/-- `(v & mask) == match` (R82). -/
def OpcodeRow.matchesWord (row : OpcodeRow) (v : Word) : Bool := (v &&& row.mask) == row.mtch

/-- The decoder's answer for a row of the opcode table: the `nbits` low bits of `w` as one command
word, the only length the core has (R85). A word with a bit above 31 is no command word. -/
def decodeTableWord (nbits w : Nat) : Option Instr :=
  if w % 2 ^ nbits < 2 ^ 32 then
    match decode (BitVec.ofNat 32 (w % 2 ^ nbits)) with
    | .ok i => some i
    | .error _ => none
  else none

end Sys2Proof
end

