-- ==== Sys2Proof/Machine/State.lean ====
section
/-! DEFINITION. The state of the machine as plain data: the registers of the window and the hidden
registers of the core (spec/10_state.md), the working registers of the round pipeline (R41), and the
model's own record of the outside world: the host accesses still to come and the values the host has
read (spec/00_scope.md R14, spec/20_memory.md R63). -/

namespace Sys2Proof.Machine

/-- STATUS.MODE: 0 = encrypt, 1 = decrypt (R29). -/
inductive Mode where
  /-- MODE = 0. -/
  | enc
  /-- MODE = 1. -/
  | dec
  deriving DecidableEq, Repr

/-- The outcome codes of STATUS.ERR (R220). The codes 7..15 are "never produced", so they have no
constructor. -/
inductive ErrCode where
  /-- NONE, code 0: success. -/
  | none
  /-- KEY_LEN, code 1 (R221). -/
  | keyLen
  /-- IV_LEN, code 2 (R222). -/
  | ivLen
  /-- PAD, code 3 (R224). -/
  | pad
  /-- SEQ, code 4 (R226). -/
  | seq
  /-- CMD, code 5 (R225). -/
  | cmd
  /-- BLOCK_LEN, code 6 (R227). -/
  | blockLen
  deriving DecidableEq, Repr

/-- The fields of STATUS (R29) but BUSY, which is 1 exactly when PENDING holds a word (R42) and is
therefore computed from it (`Regs.busy`). The reserved bits read as 0 and hold nothing. -/
structure Status where
  /-- ACTIVE, bit 1 (R31). -/
  active : Bool
  /-- MODE, bit 2 (R32). -/
  mode : Mode
  /-- DV, bit 3 (R33). -/
  dv : Bool
  /-- LAST, bit 4 (R33). -/
  last : Bool
  /-- OVR, bit 5, sticky (R34). -/
  ovr : Bool
  /-- ERR, bits 11:8 (R37). -/
  err : ErrCode
  /-- IVW, bits 15:12 (R35). -/
  ivw : BitVec 4
  /-- OUTLEN, bits 20:16 (R38). -/
  outlen : BitVec 5
  /-- KEYW, bits 31:24 (R36). -/
  keyw : BitVec 8
  deriving DecidableEq, Repr

/-- The registers of the core: those of the window (R22 to R29) and the hidden W and PENDING
(R40, R42). CMD holds no value after the command is taken (R28), so it has no field. -/
structure Regs where
  /-- KEY0..KEY7 (R22). -/
  key : KeyWords
  /-- IV0..IV3 (R23). -/
  iv : Quad
  /-- DIN0..DIN3 (R24). -/
  din : Quad
  /-- DOUT0..DOUT3 (R25). -/
  dout : Quad
  /-- CHAIN0..CHAIN3 (R26). -/
  chain : Quad
  /-- BLKCNT (R27). -/
  blkcnt : Word
  /-- STATUS (R29). -/
  status : Status
  /-- W[0..59] (R40). -/
  w : Schedule
  /-- PENDING (R42). -/
  pending : Option Word
  deriving DecidableEq, Repr

/-- What the outside world does to the core (R14, R63, R250): one entry is one bus access of the
host, one WAIT loop of R87, or one assertion of the reset input. An access carries its byte offset
and its width in bytes, so that the accesses the interface cannot express can be written down and
refused (R55, R241). -/
inductive HostEvent where
  /-- `MemRead(off, bytes)`. -/
  | read (off bytes : Nat)
  /-- `MemWrite(off, bytes, v)`. -/
  | write (off bytes : Nat) (v : Word)
  /-- `WAIT`: read STATUS, and again while bit 0 of the value read is 1 (R87). -/
  | wait
  /-- The reset input of the platform (R250). -/
  | reset
  deriving DecidableEq, Repr

/-- What one host read returned. -/
structure ReadResult where
  off : Nat
  value : Word
  deriving DecidableEq, Repr

/-- The whole machine. -/
structure State where
  /-- The registers of the core. -/
  regs : Regs
  /-- STATE, the working matrix of the round pipeline (R41). -/
  work : StateMatrix
  /-- ROUND, the round counter of the pipeline, 0..14 (R41). -/
  round : Fin 15
  /-- The model's own: what the outside world will still do, in its order (R63). -/
  inputs : List HostEvent
  /-- The model's own: how many entries of `inputs` still happen before the engine completes the
  pending command (R178: any finite number). -/
  lag : Nat
  /-- The model's own: what the host has read so far, the newest first. -/
  reads : List ReadResult
  /-- The model's own: how many free values have been drawn, so that each draw is a fresh one. -/
  draws : Nat
  deriving DecidableEq, Repr

/-- Machine faults. There are none: "The core has no trap mechanism", and "A command error
(codes 1..6) is a normal outcome ... It is not a model fault" (R241). -/
inductive Fault where
  deriving DecidableEq, Repr

/-- Why a step has no meaning. The last three are raised by a host access alone, never by a command:
such an access "cannot be expressed" at the interface, and "a model ... must refuse them" (R55). -/
inductive Refusal where
  /-- An instruction with no meaning yet. Raised by `exec` alone; no arm raises it now. Safe. -/
  | notModelled (mnemonic : String)
  /-- A host access of a width other than four bytes (R55). Raised by `hostStep`. Safe. -/
  | notOneWord
  /-- A host access at an offset that is no multiple of four (R51, R55). Raised by `hostStep`. Safe. -/
  | misaligned
  /-- A host access at an offset above 0xFC (R51). Raised by `hostStep`. Safe. -/
  | outsideWindow
  deriving DecidableEq, Repr

/-- STATUS at reset: 0x00000000 (R45). -/
def Status.reset : Status :=
  { active := false, mode := .enc, dv := false, last := false, ovr := false, err := .none,
    ivw := 0, outlen := 0, keyw := 0 }

/-- Every register of R45 at its reset value. -/
def Regs.reset : Regs :=
  { key := Vector.replicate 8 0, iv := Vector.replicate 4 0, din := Vector.replicate 4 0,
    dout := Vector.replicate 4 0, chain := Vector.replicate 4 0, blkcnt := 0, status := .reset,
    w := Vector.replicate 60 0, pending := none }

/-- The machine right after reset (R45, R251): every register at its reset value, no command pending,
and nothing asked of it yet. STATE and ROUND are "unspecified; unobservable" at reset (R45); zero is a
DESIGN CHOICE (log entry 3). `inputs`, `lag`, `reads` and `draws` are the model's own (log entry 2). -/
def State.reset : State :=
  { regs := .reset, work := Vector.replicate 4 (Vector.replicate 4 0), round := 0,
    inputs := [], lag := 0, reads := [], draws := 0 }

end Sys2Proof.Machine
end

