-- ==== Sys2Proof/Config.lean ====
section
/-! DEFINITION. What the spec leaves open: the parameters of spec/00_scope.md R8 and the draws of
spec/20_memory.md R59 and spec/10_state.md R41. Each is a constant with no body, so no proof can see a
value of it and every statement holds for every value. Each is applied to a counter of `State`, so
that every use is a fresh one, and to all the registers, so that no proof can rest on the open value
being independent of the key or the data. -/

namespace Sys2Proof.Config

open Sys2Proof.Machine

/-- The word a host read returns while BUSY = 1, but bit 0 of STATUS (R59): the draw number, the
offset read, the registers at that moment. -/
opaque busyDraw : Nat → Nat → Regs → Word

/-- How many host steps pass before the engine completes a command (R8 LAT, R178, R262): the draw
number, the command word, the registers when it was taken. "It may depend on the opcode, on the data". -/
opaque latency : Nat → Word → Regs → Nat

/-- What a run of the round pipeline, a CLEAR or a reset leaves in STATE (R41, R45 "unspecified"). -/
opaque leftWork : Nat → Regs → StateMatrix

/-- What a run of the round pipeline, a CLEAR or a reset leaves in ROUND (R41, R45 "unspecified"). -/
opaque leftRound : Nat → Regs → Fin 15

end Sys2Proof.Config
end

