-- ==== Sys2Proof/Machine/Flags.lean ====
section
/-! DEFINITION. STATUS as a word: BUSY, the field codes and the assembly of the word from its fields
(spec/10_state.md R29, R30; spec/60_exceptions.md R220). -/

namespace Sys2Proof.Machine

/-- STATUS.BUSY: 1 exactly when PENDING is present (R30, R42). -/
def busy (r : Regs) : Bool := r.pending.isSome

/-- The code of an outcome in STATUS.ERR (R220). -/
def errCode : ErrCode → BitVec 4
  | .none => 0
  | .keyLen => 1
  | .ivLen => 2
  | .pad => 3
  | .seq => 4
  | .cmd => 5
  | .blockLen => 6

/-- STATUS.MODE as a bit: 0 = encrypt, 1 = decrypt (R29). -/
def modeBit : Mode → Bool
  | .enc => false
  | .dec => true

/-- The STATUS word, most significant field first: KEYW, three reserved bits, OUTLEN, IVW, ERR, two
reserved bits, OVR, LAST, DV, MODE, ACTIVE, BUSY (R29). The reserved bits read as 0. -/
def statusWord (r : Regs) : Word :=
  r.status.keyw ++ 0#3 ++ r.status.outlen ++ r.status.ivw ++ errCode r.status.err ++ 0#2 ++
    BitVec.ofBool r.status.ovr ++ BitVec.ofBool r.status.last ++ BitVec.ofBool r.status.dv ++
    BitVec.ofBool (modeBit r.status.mode) ++ BitVec.ofBool r.status.active ++ BitVec.ofBool (busy r)

/-- STATUS.KEYW with bit k set: KEYk has been written (R36). -/
def markKey (k : Fin 8) (st : Status) : Status := { st with keyw := st.keyw ||| (1#8 <<< k.val) }

/-- STATUS.IVW with bit k set: IVk has been written (R35). -/
def markIv (k : Fin 4) (st : Status) : Status := { st with ivw := st.ivw ||| (1#4 <<< k.val) }

/-- STATUS after a successful data command: DV = 1, LAST and OUTLEN as given, ERR = NONE (R33, R38). -/
def statusOutput (isLast : Bool) (len : BitVec 5) (st : Status) : Status :=
  { st with dv := true, last := isLast, outlen := len, err := .none }

/-- STATUS with no output: DV, LAST and OUTLEN 0 (R33, R38, R175 ClearOutput). -/
def statusNoOutput (st : Status) : Status := { st with dv := false, last := false, outlen := 0 }

/-- STATUS of a session that opens in mode m: ACTIVE = 1, MODE, no output, ERR = NONE (R181, R182). -/
def statusOpen (m : Mode) (st : Status) : Status :=
  { statusNoOutput st with active := true, mode := m, err := .none }

/-- STATUS with ACTIVE = 0 (R31). -/
def statusClosed (st : Status) : Status := { st with active := false }

end Sys2Proof.Machine
end

