-- ==== Sys2Proof/Machine/Bus.lean ====
section
/-! DEFINITION. The register window and the host's accesses to it (spec/20_memory.md R50 to R60), and
the reset input (spec/70_reset_and_hazards.md R250). -/

namespace Sys2Proof.Machine

/-- The names of the register map (R52). -/
inductive WinReg where
  | cmd
  | status
  | blkcnt
  | key (k : Fin 8)
  | iv (k : Fin 4)
  | din (k : Fin 4)
  | dout (k : Fin 4)
  | chain (k : Fin 4)
  /-- 0x0C and 0x70..0xFC (R60). -/
  | reserved
  deriving DecidableEq, Repr

/-- The register at a byte offset of the window (R52). The offset is carried as the word index
`off[7:2]` (R51). -/
def winReg (off : Nat) : WinReg :=
  if off / 4 = 0 then .cmd
  else if off / 4 = 1 then .status
  else if off / 4 = 2 then .blkcnt
  else if off / 4 = 3 then .reserved
  else if off / 4 < 12 then .key (Fin.ofNat 8 (off / 4 - 4))
  else if off / 4 < 16 then .iv (Fin.ofNat 4 (off / 4 - 12))
  else if off / 4 < 20 then .din (Fin.ofNat 4 (off / 4 - 16))
  else if off / 4 < 24 then .dout (Fin.ofNat 4 (off / 4 - 20))
  else if off / 4 < 28 then .chain (Fin.ofNat 4 (off / 4 - 24))
  else .reserved

/-- What a host read returns while BUSY = 0 (R52, R59). -/
def idleRead (r : Regs) (off : Nat) : Word :=
  match winReg off with
  | .cmd => 0
  | .status => statusWord r
  | .blkcnt => r.blkcnt
  | .key _ => 0
  | .iv k => r.iv[k]
  | .din k => r.din[k]
  | .dout k => r.dout[k]
  | .chain k => r.chain[k]
  | .reserved => 0

/-- What a host read returns while BUSY = 1: a draw, but bit 0 of STATUS, which is 1 (R59). -/
def busyRead (draw : Nat) (r : Regs) (off : Nat) : Word :=
  match winReg off with
  | .status => Config.busyDraw draw off r ||| 1
  | _ => Config.busyDraw draw off r

/-- The value a host read of offset `off` returns in state s (R59). -/
def readValue (s : State) (off : Nat) : Word :=
  if busy s.regs then busyRead s.draws s.regs off else idleRead s.regs off

/-- A host write while BUSY = 0, to an offset other than CMD's (R57). -/
def storeWord (r : Regs) (off : Nat) (v : Word) : Regs :=
  match winReg off with
  | .key k => { r with key := r.key.set k.val v, status := markKey k r.status }
  | .iv k => { r with iv := r.iv.set k.val v, status := markIv k r.status }
  | .din k => { r with din := r.din.set k.val v }
  | .cmd => r
  | .status => r
  | .blkcnt => r
  | .dout _ => r
  | .chain _ => r
  | .reserved => r

/-- A CMD write while BUSY = 0: PENDING holds the word, BUSY is 1 with it, and the engine completes it
after a number of host steps that is left free (R57, R178). -/
def issueCommand (v : Word) (s : State) : State :=
  { s with regs := { s.regs with pending := some v }, lag := Config.latency s.draws v s.regs,
           draws := s.draws + 1 }

/-- A host write while BUSY = 1: dropped, and OVR set (R58). -/
def dropWrite (r : Regs) : Regs := { r with status := { r.status with ovr := true } }

/-- A host write of one word (R57, R58). -/
def busWrite (off : Nat) (v : Word) (s : State) : State :=
  if busy s.regs then { s with regs := dropWrite s.regs }
  else match winReg off with
    | .cmd => issueCommand v s
    | _ => { s with regs := storeWord s.regs off v }

/-- A host read of one word: no register changes (R56). The model records the value read, and counts
the draw if there was one. -/
def busRead (off : Nat) (s : State) : State :=
  { s with reads := ⟨off, readValue s off⟩ :: s.reads,
           draws := if busy s.regs then s.draws + 1 else s.draws }

/-- The reset input: every register at its reset value and PENDING discarded (R45, R250). STATE and
ROUND are unspecified after it (R45). -/
def resetCore (s : State) : State :=
  { s with regs := Regs.reset, work := Config.leftWork s.draws s.regs,
           round := Config.leftRound s.draws s.regs, draws := s.draws + 1, lag := 0 }

/-- Why the interface cannot express an access, if it cannot (R51, R55). -/
def accessRefusal (off bytes : Nat) : Option Refusal :=
  if bytes ≠ 4 then some .notOneWord
  else if off % 4 ≠ 0 then some .misaligned
  else if 256 ≤ off then some .outsideWindow
  else none

/-- The state in which the event at the head of `inputs` happens: it is taken from `inputs`, and one
host step fewer is left before the engine completes the pending command. -/
def takeEvent (rest : List HostEvent) (s : State) : State :=
  { s with inputs := rest, lag := s.lag - 1 }

/-- One step of the host, `e` the event at the head of `inputs` and `rest` what follows it (R57 to R59,
R87, R250). WAIT reads STATUS and stays at the head while bit 0 of the value read is 1. -/
def hostStep (e : HostEvent) (rest : List HostEvent) (s : State) :
    Host.Outcome State Fault Refusal :=
  match e with
  | .read off bytes =>
    match accessRefusal off bytes with
    | some why => .refused why
    | none => .next (busRead off (takeEvent rest s))
  | .write off bytes v =>
    match accessRefusal off bytes with
    | some why => .refused why
    | none => .next (busWrite off v (takeEvent rest s))
  | .wait =>
    if (readValue s 4).getLsbD 0 then .next (busRead 4 (takeEvent (.wait :: rest) s))
    else .next (busRead 4 (takeEvent rest s))
  | .reset => .next (resetCore (takeEvent rest s))

end Sys2Proof.Machine
end

