-- ==== Sys2Proof/Machine/Operands.lean ====
section
/-! DEFINITION. Operand assembly: how register words hold byte sequences, and how a block is laid out
as the 4x4 state (spec/00_scope.md R10, R11, R13; spec/20_memory.md R53). -/

namespace Sys2Proof.Machine

/-- Byte j of a word: bits [31−8j : 24−8j], so byte 0 is the most significant (R13, R53). -/
def wordByte (w : Word) (j : Fin 4) : Byte := w.extractLsb' (24 - 8 * j.val) 8

/-- The word whose bytes are b0, b1, b2, b3: `{b0, b1, b2, b3}` (R13). -/
def wordOf (b0 b1 b2 b3 : Byte) : Word := b0 ++ b1 ++ b2 ++ b3

/-- `bytesOf` of four registers: byte 4k+j is byte j of word k (R13). -/
def bytesOf (ws : Quad) : Block :=
  Vector.ofFn fun i => wordByte ws[i.val / 4] ⟨i.val % 4, Nat.mod_lt _ (by decide)⟩

/-- `wordsOf`, the inverse of `bytesOf` (R13). -/
def wordsOf (b : Block) : Quad :=
  Vector.ofFn fun k => wordOf b[4 * k.val] b[4 * k.val + 1] b[4 * k.val + 2] b[4 * k.val + 3]

/-- `bytesOf` of the eight key registers (R13, R22). -/
def keyBytesOf (ws : KeyWords) : KeyBytes :=
  Vector.ofFn fun i => wordByte ws[i.val / 4] ⟨i.val % 4, Nat.mod_lt _ (by decide)⟩

/-- `wordsOf` a 32-byte key (R13, R22). -/
def keyWordsOf (k : KeyBytes) : KeyWords :=
  Vector.ofFn fun i => wordOf k[4 * i.val] k[4 * i.val + 1] k[4 * i.val + 2] k[4 * i.val + 3]

/-- Byte-wise XOR of two blocks (R10). -/
@[irreducible] def xorBlock (a b : Block) : Block := Vector.ofFn fun i => a[i.val] ^^^ b[i.val]

/-- `s[r][c]`: row r, column c of the state (R11). -/
def entry (s : StateMatrix) (r c : Fin 4) : Byte := s[r.val][c.val]

/-- The state whose entry in row r and column c is `f r c`. -/
def matrixOf (f : Fin 4 → Fin 4 → Byte) : StateMatrix :=
  Vector.ofFn fun r => Vector.ofFn fun c => f r c

/-- `toState(b)[r][c] = b[r + 4c]` (R11). -/
def toState (b : Block) : StateMatrix := matrixOf fun r c => b[r.val + 4 * c.val]

/-- `fromState(s)[r + 4c] = s[r][c]` (R11). -/
def fromState (s : StateMatrix) : Block :=
  Vector.ofFn fun i => entry s ⟨i.val % 4, Nat.mod_lt _ (by decide)⟩ ⟨i.val / 4, by omega⟩

end Sys2Proof.Machine
end

