-- ==== Sys2Proof/Machine/Tables.lean ====
section
/-! DEFINITION. The constant tables and the field arithmetic of the datapath: S-box, inverse S-box,
GF(2^8) products, Rcon (spec/41_datapath.md R121 to R125, spec/40_key_schedule.md R101; they are
constants and no state, spec/10_state.md R43). -/

namespace Sys2Proof.Machine

/-- The entry for byte `a` of a table written as in the spec: sixteen rows of sixteen bytes, the row
chosen by the high nibble, the column by the low nibble, the leftmost column the most significant
byte of the row's literal. -/
def tableByte (rows : List Nat) (a : Byte) : Byte :=
  BitVec.ofNat 8 (rows.getD (a.toNat / 16) 0 >>> (8 * (15 - a.toNat % 16)))

/-- The rows of the S-box, as printed in R121. -/
def sboxRows : List Nat :=
  [ 0x637c777bf26b6fc53001672bfed7ab76,
    0xca82c97dfa5947f0add4a2af9ca472c0,
    0xb7fd9326363ff7cc34a5e5f171d83115,
    0x04c723c31896059a071280e2eb27b275,
    0x09832c1a1b6e5aa0523bd6b329e32f84,
    0x53d100ed20fcb15b6acbbe394a4c58cf,
    0xd0efaafb434d338545f9027f503c9fa8,
    0x51a3408f929d38f5bcb6da2110fff3d2,
    0xcd0c13ec5f974417c4a77e3d645d1973,
    0x60814fdc222a908846eeb814de5e0bdb,
    0xe0323a0a4906245cc2d3ac629195e479,
    0xe7c8376d8dd54ea96c56f4ea657aae08,
    0xba78252e1ca6b4c6e8dd741f4bbd8b8a,
    0x703eb5664803f60e613557b986c11d9e,
    0xe1f8981169d98e949b1e87e9ce5528df,
    0x8ca1890dbfe6426841992d0fb054bb16 ]

/-- The rows of the inverse S-box, as printed in R122. -/
def invSboxRows : List Nat :=
  [ 0x52096ad53036a538bf40a39e81f3d7fb,
    0x7ce339829b2fff87348e4344c4dee9cb,
    0x547b9432a6c2233dee4c950b42fac34e,
    0x082ea16628d924b2765ba2496d8bd125,
    0x72f8f66486689816d4a45ccc5d65b692,
    0x6c704850fdedb9da5e154657a78d9d84,
    0x90d8ab008cbcd30af7e45805b8b34506,
    0xd02c1e8fca3f0f02c1afbd0301138a6b,
    0x3a9111414f67dcea97f2cfcef0b4e673,
    0x96ac7422e7ad3585e2f937e81c75df6e,
    0x47f11a711d29c5896fb7620eaa18be1b,
    0xfc563e4bc6d279209adbc0fe78cd5af4,
    0x1fdda8338807c731b11210592780ec5f,
    0x60517fa919b54a0d2de57a9f93c99cef,
    0xa0e03b4dae2af5b0c8ebbb3c83539961,
    0x172b047eba77d626e169146355210c7d ]

/-- `S[a]` (R121). -/
def sbox (a : Byte) : Byte := tableByte sboxRows a

/-- `InvS[a]` (R122). -/
def invSbox (a : Byte) : Byte := tableByte invSboxRows a

/-- Multiplication by 0x02 in GF(2^8) modulo x^8 + x^4 + x^3 + x + 1 (R123). -/
def xtime (a : Byte) : Byte := (a <<< 1) ^^^ (if a.getLsbD 7 then 0x1B else 0)

/-- `xtime` applied j times: multiplication by x^j (R123). -/
def xtimes : Nat → Byte → Byte
  | 0, a => a
  | j + 1, a => xtime (xtimes j a)

/-- The product in GF(2^8): the XOR of `xtimes j a` over the set bits j of k (R123). -/
def gmul (a k : Byte) : Byte :=
  (List.range 8).foldl (fun acc j => if k.getLsbD j then acc ^^^ xtimes j a else acc) 0

/-- MUL2 (R124). -/
def mul2 (a : Byte) : Byte := gmul a 2
/-- MUL3 (R124). -/
def mul3 (a : Byte) : Byte := gmul a 3
/-- MUL9 (R124). -/
def mul9 (a : Byte) : Byte := gmul a 9
/-- MUL11 (R124). -/
def mul11 (a : Byte) : Byte := gmul a 11
/-- MUL13 (R124). -/
def mul13 (a : Byte) : Byte := gmul a 13
/-- MUL14 (R124). -/
def mul14 (a : Byte) : Byte := gmul a 14

/-- `Rcon[0..6]` (R101). An index above 6 never occurs (R106); it reads 0. -/
def rcon (j : Nat) : Byte := ([0x01, 0x02, 0x04, 0x08, 0x10, 0x20, 0x40] : List Byte).getD j 0

end Sys2Proof.Machine
end

