-- ==== Sys2Proof/Machine/KeySchedule.lean ====
section
/-! DEFINITION. The AES-256 key scheduler (spec/40_key_schedule.md R100 to R108). -/

namespace Sys2Proof.Machine

/-- RotWord: `[a0, a1, a2, a3]` to `[a1, a2, a3, a0]` (R102). -/
def rotWord (w : Word) : Word := wordOf (wordByte w 1) (wordByte w 2) (wordByte w 3) (wordByte w 0)

/-- SubWord: the S-box on each byte of a word (R103). -/
def subWord (w : Word) : Word :=
  wordOf (sbox (wordByte w 0)) (sbox (wordByte w 1)) (sbox (wordByte w 2)) (sbox (wordByte w 3))

/-- XOR of a round constant into the first byte of a word only (R101, R105). -/
def xorFirstByte (w : Word) (b : Byte) : Word :=
  wordOf (wordByte w 0 ^^^ b) (wordByte w 1) (wordByte w 2) (wordByte w 3)

/-- `temp` of R105 before its XOR with `w[i-8]`: the three branches on i mod 8, applied to `w[i-1]`. -/
def scheduleTemp (i : Nat) (prev : Word) : Word :=
  if i % 8 = 0 then xorFirstByte (subWord (rotWord prev)) (rcon (i / 8 - 1))
  else if i % 8 = 4 then subWord prev
  else prev

/-- `w[i] <- temp ^ w[i-8]` for i = n + 8 (R105). -/
def expandStep (n : Nat) (h : n < 52) (w : Schedule) : Schedule :=
  w.set (n + 8) (scheduleTemp (n + 8) w[n + 7] ^^^ w[n])

/-- The first n iterations of the loop of R105, i = 8 .. n + 7. -/
def expandLoop : (n : Nat) → n ≤ 52 → Schedule → Schedule
  | 0, _, w => w
  | n + 1, h, w => expandStep n h (expandLoop n (Nat.le_of_succ_le h) w)

/-- The initial words `w[0..8)`: the key split into eight words (R104). The later entries are written
by the loop before they are read. -/
def initialWords (key : KeyBytes) : Schedule :=
  Vector.ofFn fun i => if h : i.val < 8 then (keyWordsOf key)[i.val] else 0

/-- `expand(key)` (R100, R105). -/
@[irreducible] def expand (key : KeyBytes) : Schedule := expandLoop 52 (Nat.le_refl _) (initialWords key)

/-- Word c of round key r: `w[4r + c]` (R107). -/
def roundKeyWord (w : Schedule) (r : Fin 15) (c : Fin 4) : Word := w[4 * r.val + c.val]

/-- Round key r as sixteen bytes: `w[4r] ++ w[4r+1] ++ w[4r+2] ++ w[4r+3]` (R107). -/
def roundKey (w : Schedule) (r : Fin 15) : Block := bytesOf (Vector.ofFn fun c => roundKeyWord w r c)

end Sys2Proof.Machine
end

