-- ==== Sys2Proof/Machine/Datapath.lean ====
section
/-! DEFINITION. The round transforms and their inverses, pure functions on the 4x4 state
(spec/41_datapath.md R126 to R141). -/

namespace Sys2Proof.Machine

/-- SubBytes (R126). -/
def subBytes (s : StateMatrix) : StateMatrix := matrixOf fun r c => sbox (entry s r c)

/-- InvSubBytes (R127). -/
def invSubBytes (s : StateMatrix) : StateMatrix := matrixOf fun r c => invSbox (entry s r c)

/-- ShiftRows: `s'[r][c] <- s[r][(c + r) mod 4]` (R128). Addition in `Fin 4` is modulo 4. -/
def shiftRows (s : StateMatrix) : StateMatrix := matrixOf fun r c => entry s r (c + r)

/-- InvShiftRows: `s'[r][c] <- s[r][(c - r) mod 4]`, the mod non-negative (R129). -/
def invShiftRows (s : StateMatrix) : StateMatrix := matrixOf fun r c => entry s r (c - r)

/-- Row r of the MixColumns product on a column a0..a3 (R130). -/
def mixColumn (r : Fin 4) (a0 a1 a2 a3 : Byte) : Byte :=
  match r with
  | 0 => mul2 a0 ^^^ mul3 a1 ^^^ a2 ^^^ a3
  | 1 => a0 ^^^ mul2 a1 ^^^ mul3 a2 ^^^ a3
  | 2 => a0 ^^^ a1 ^^^ mul2 a2 ^^^ mul3 a3
  | 3 => mul3 a0 ^^^ a1 ^^^ a2 ^^^ mul2 a3

/-- MixColumns (R130). -/
def mixColumns (s : StateMatrix) : StateMatrix :=
  matrixOf fun r c => mixColumn r (entry s 0 c) (entry s 1 c) (entry s 2 c) (entry s 3 c)

/-- Row r of the InvMixColumns product on a column a0..a3 (R131). -/
def invMixColumn (r : Fin 4) (a0 a1 a2 a3 : Byte) : Byte :=
  match r with
  | 0 => mul14 a0 ^^^ mul11 a1 ^^^ mul13 a2 ^^^ mul9 a3
  | 1 => mul9 a0 ^^^ mul14 a1 ^^^ mul11 a2 ^^^ mul13 a3
  | 2 => mul13 a0 ^^^ mul9 a1 ^^^ mul14 a2 ^^^ mul11 a3
  | 3 => mul11 a0 ^^^ mul13 a1 ^^^ mul9 a2 ^^^ mul14 a3

/-- InvMixColumns (R131). -/
def invMixColumns (s : StateMatrix) : StateMatrix :=
  matrixOf fun r c => invMixColumn r (entry s 0 c) (entry s 1 c) (entry s 2 c) (entry s 3 c)

/-- AddRoundKey: `s'[row][c] <- s[row][c] ^ w[4r + c][row]` (R140). -/
def addRoundKey (w : Schedule) (r : Fin 15) (s : StateMatrix) : StateMatrix :=
  matrixOf fun row c => entry s row c ^^^ wordByte (roundKeyWord w r c) row

end Sys2Proof.Machine
end

