-- ==== Sys2Proof/Machine/Pipeline.lean ====
section
/-! DEFINITION. The 14-round pipeline, forward and inverse (spec/42_round_pipeline.md R150, R155). -/

namespace Sys2Proof.Machine

/-- A middle round: SubBytes, ShiftRows, MixColumns, AddRoundKey(r) (R150, rounds 1..13). -/
def encRound (w : Schedule) (r : Fin 15) (s : StateMatrix) : StateMatrix :=
  addRoundKey w r (mixColumns (shiftRows (subBytes s)))

/-- The state after AddRoundKey(0) and the middle rounds 1..n (R150). -/
def encRounds (w : Schedule) (s : StateMatrix) : Nat → StateMatrix
  | 0 => addRoundKey w 0 s
  | n + 1 => encRound w (Fin.ofNat 15 (n + 1)) (encRounds w s n)

/-- Round 14: SubBytes, ShiftRows, AddRoundKey(14), with no MixColumns (R150). -/
def encLast (w : Schedule) (s : StateMatrix) : StateMatrix :=
  addRoundKey w 14 (shiftRows (subBytes s))

/-- EncryptBlock (R150). Irreducible, as DecryptBlock and `expand` are, so that no proof about the
registers unfolds the cipher by accident; `unfold` and the kernel still do. -/
@[irreducible] def encryptBlock (b : Block) (w : Schedule) : Block :=
  fromState (encLast w (encRounds w (toState b) 13))

/-- A middle inverse round: InvShiftRows, InvSubBytes, AddRoundKey(r), InvMixColumns, in the source's
order, the direct inverse cipher (R155, rounds 13..1). -/
def decRound (w : Schedule) (r : Fin 15) (s : StateMatrix) : StateMatrix :=
  invMixColumns (addRoundKey w r (invSubBytes (invShiftRows s)))

/-- The state after AddRoundKey(14) and the first n middle inverse rounds 13 .. 14 − n (R155). -/
def decRounds (w : Schedule) (s : StateMatrix) : Nat → StateMatrix
  | 0 => addRoundKey w 14 s
  | n + 1 => decRound w (Fin.ofNat 15 (13 - n)) (decRounds w s n)

/-- Round 0: InvShiftRows, InvSubBytes, AddRoundKey(0), with no InvMixColumns (R155). -/
def decLast (w : Schedule) (s : StateMatrix) : StateMatrix :=
  addRoundKey w 0 (invSubBytes (invShiftRows s))

/-- DecryptBlock (R155). -/
@[irreducible] def decryptBlock (c : Block) (w : Schedule) : Block :=
  fromState (decLast w (decRounds w (toState c) 13))

end Sys2Proof.Machine
end

