-- ==== Sys2Proof/Machine/Cbc.lean ====
section
/-! DEFINITION. The CBC chaining steps and the padding state machine, pure functions of a block
(spec/43_cbc_padding_commands.md R183, R184, R187, R188, R192). -/

namespace Sys2Proof.Machine

/-- CbcEncStep: the chaining XOR comes before EncryptBlock (R187, R198). -/
def cbcEncStep (w : Schedule) (b ch : Block) : Block := encryptBlock (xorBlock b ch) w

/-- CbcDecStep: the chaining XOR comes after DecryptBlock (R188, R198). -/
def cbcDecStep (w : Schedule) (c ch : Block) : Block := xorBlock (decryptBlock c w) ch

/-- PadFinal: the first n bytes of x, then p = 16 − n bytes of value p (R183). -/
def padFinal (x : Block) (n : Nat) : Block :=
  Vector.ofFn fun i => if i.val < n then x[i.val] else BitVec.ofNat 8 (16 - n)

/-- UnpadCheck: `some k`, the number of message bytes kept, or `none` for Fail. Only the last byte is
looked at (R173, R184). -/
def unpadCheck (q : Block) : Option Nat :=
  if q[15].toNat = 0 ∨ 16 < q[15].toNat then none else some (16 - q[15].toNat)

/-- `q[0..k) ++ rep(16−k, 0x00)`: the pad bytes are not output (R186, R192). -/
def stripPad (q : Block) (k : Nat) : Block :=
  Vector.ofFn fun i => if i.val < k then q[i.val] else 0

end Sys2Proof.Machine
end

