-- ==== Sys2Proof/Machine/Ops.lean ====
section
/-! DEFINITION. The operations the commands share: the helper procedures of
spec/43_cbc_padding_commands.md R175, error entry (spec/00_scope.md R12, spec/60_exceptions.md R220,
R232), the opening of a session, the writing of an output block, and what a run of the round pipeline
leaves behind (spec/10_state.md R41). -/

namespace Sys2Proof.Machine

/-- ClearOutput (R175). -/
def clearOutput (r : Regs) : Regs :=
  { r with dout := Vector.replicate 4 0, status := statusNoOutput r.status }

/-- EndSessionClear: ABORT and the session-ending errors (R175). -/
def endSessionClear (r : Regs) : Regs :=
  { clearOutput r with
    w := Vector.replicate 60 0, chain := Vector.replicate 4 0,
    status := statusClosed (clearOutput r).status }

/-- EndSessionDone: a successful FINAL; CHAIN and DOUT are kept (R175). -/
def endSessionDone (r : Regs) : Regs :=
  { r with w := Vector.replicate 60 0, status := statusClosed r.status }

/-- `STATUS.ERR <- e` (R37). -/
def setErr (e : ErrCode) (r : Regs) : Regs := { r with status := { r.status with err := e } }

/-- The errors that end a session: PAD and BLOCK_LEN (R220, R232). -/
def endsSession : ErrCode → Bool
  | .none => false
  | .keyLen => false
  | .ivLen => false
  | .pad => true
  | .seq => false
  | .cmd => false
  | .blockLen => true

/-- `raise Error(e)`, the one error entry of the core: `STATUS.ERR <- e` and the state effects R220
gives for e. "No state is saved, no mode changes and control goes nowhere, because there is no trap"
(R12, R232). There is no return beside it: "There is no return-from-trap" (R233). -/
def raiseError (e : ErrCode) (r : Regs) : Regs :=
  setErr e (if endsSession e then endSessionClear r else r)

/-- The successful part of BEGIN_ENC and BEGIN_DEC (R181, R182). -/
def openSession (m : Mode) (r : Regs) : Regs :=
  { clearOutput r with
    w := expand (keyBytesOf r.key), chain := r.iv, blkcnt := 0, status := statusOpen m r.status }

/-- BEGIN_ENC and BEGIN_DEC, with their error checks in the order of R230 (R181, R182). -/
def beginSession (m : Mode) (r : Regs) : Regs :=
  if r.status.active then raiseError .seq r
  else if r.status.keyw ≠ 0xFF then raiseError .keyLen r
  else if r.status.ivw ≠ 0xF then raiseError .ivLen r
  else openSession m r

/-- A data command succeeds with output block y and next chaining value ch: DOUT, CHAIN, DV, LAST,
OUTLEN, ERR written and BLKCNT one more, modulo 2^32 (R27, R185, R186). -/
def putOutput (y : Block) (ch : Quad) (isLast : Bool) (len : BitVec 5) (r : Regs) : Regs :=
  { r with dout := wordsOf y, chain := ch, blkcnt := r.blkcnt + 1,
           status := statusOutput isLast len r.status }

/-- The next chaining value and the output of a BLOCK (R185): the ciphertext block chains on in both
directions. -/
def blockRegs (r : Regs) : Regs :=
  match r.status.mode with
  | .enc =>
    let y := cbcEncStep r.w (bytesOf r.din) (bytesOf r.chain)
    putOutput y (wordsOf y) false 16 r
  | .dec => putOutput (cbcDecStep r.w (bytesOf r.din) (bytesOf r.chain)) r.din false 16 r

/-- FINAL in an encrypting session: pad, encrypt, end the session (R186). -/
def finalEncRegs (n : Nat) (r : Regs) : Regs :=
  let y := cbcEncStep r.w (padFinal (bytesOf r.din) n) (bytesOf r.chain)
  endSessionDone (putOutput y (wordsOf y) true 16 r)

/-- FINAL #0 in a decrypting session: decrypt, check the padding, strip it, end the session (R186). -/
def finalDecRegs (r : Regs) : Regs :=
  let q := cbcDecStep r.w (bytesOf r.din) (bytesOf r.chain)
  match unpadCheck q with
  | none => raiseError .pad r
  | some k => endSessionDone (putOutput (stripPad q k) r.din true (BitVec.ofNat 5 k) r)

/-- ABORT (R195). -/
def abortRegs (r : Regs) : Regs := { setErr .none (endSessionClear r) with blkcnt := 0 }

/-- CLEAR: every register of R45 at its reset value. PENDING, and BUSY with it, is left to the engine
step that completes the command (R178, R196). -/
def clearRegs (r : Regs) : Regs := { Regs.reset with pending := r.pending }

/-- `f` on the registers, the rest of the machine unchanged. -/
def onRegs (f : Regs → Regs) (s : State) : State := { s with regs := f s.regs }

/-- `f` on the registers, by a command that runs the round pipeline or by a CLEAR: STATE and ROUND are
left at free values, because their "values between commands" are not stated (R41, R45, R157). -/
def onRegsDrawing (f : Regs → Regs) (s : State) : State :=
  { s with regs := f s.regs, work := Config.leftWork s.draws s.regs,
           round := Config.leftRound s.draws s.regs, draws := s.draws + 1 }

end Sys2Proof.Machine
end

