-- ==== Sys2Proof/Machine/Control.lean ====
section
/-! DEFINITION. The commands that process no block (spec/43_cbc_padding_commands.md R180, R195,
R196). -/

namespace Sys2Proof.Machine

/-- NOP: `STATUS.ERR <- NONE` and nothing else (R180). -/
def execNop (s : State) : Host.Outcome State Fault Refusal := .next (onRegs (setErr .none) s)

/-- ABORT (R195). -/
def execAbort (s : State) : Host.Outcome State Fault Refusal := .next (onRegs abortRegs s)

/-- CLEAR (R196). -/
def execClear (s : State) : Host.Outcome State Fault Refusal := .next (onRegsDrawing clearRegs s)

end Sys2Proof.Machine
end

