-- ==== Sys2Proof/Machine/Data.lean ====
section
/-! DEFINITION. The commands that process a block (spec/43_cbc_padding_commands.md R185, R186). -/

namespace Sys2Proof.Machine

/-- BLOCK (R185): SEQ outside a session (R226), else one block through the pipeline. -/
def execBlock (s : State) : Host.Outcome State Fault Refusal :=
  if s.regs.status.active then .next (onRegsDrawing blockRegs s)
  else .next (onRegs (raiseError .seq) s)

/-- FINAL #n (R186): SEQ outside a session (R226), BLOCK_LEN before the block is decrypted (R193,
R230), else the last block through the pipeline. -/
def execFinal (n : Nat) (s : State) : Host.Outcome State Fault Refusal :=
  if s.regs.status.active then
    match s.regs.status.mode with
    | .enc => .next (onRegsDrawing (finalEncRegs n) s)
    | .dec =>
      if n ≠ 0 then .next (onRegs (raiseError .blockLen) s)
      else .next (onRegsDrawing finalDecRegs s)
  else .next (onRegs (raiseError .seq) s)

end Sys2Proof.Machine
end

