-- ==== Sys2Proof/Machine/Session.lean ====
section
/-! DEFINITION. The commands that open a session (spec/43_cbc_padding_commands.md R181, R182). -/

namespace Sys2Proof.Machine

/-- BEGIN_ENC (R181). -/
def execBeginEnc (s : State) : Host.Outcome State Fault Refusal :=
  .next (onRegs (beginSession .enc) s)

/-- BEGIN_DEC (R182). -/
def execBeginDec (s : State) : Host.Outcome State Fault Refusal :=
  .next (onRegs (beginSession .dec) s)

end Sys2Proof.Machine
end

