-- ==== Sys2Proof/Machine/Dispatch.lean ====
section
/-! DEFINITION. The meaning of every command: one arm per constructor of `Instr`. -/

namespace Sys2Proof.Machine

def exec (i : Instr) (s : State) : Host.Outcome State Fault Refusal :=
  match i with
  | .nop => Sys2Proof.Machine.execNop s
  | .beginEnc => Sys2Proof.Machine.execBeginEnc s
  | .beginDec => Sys2Proof.Machine.execBeginDec s
  | .block => Sys2Proof.Machine.execBlock s
  | .final n => Sys2Proof.Machine.execFinal n s
  | .abort => Sys2Proof.Machine.execAbort s
  | .clear => Sys2Proof.Machine.execClear s

end Sys2Proof.Machine
end

