-- ==== Sys2Proof/Machine/Engine.lean ====
section
/-! DEFINITION. The command engine and the choice between the two agents
(spec/43_cbc_padding_commands.md R178, spec/20_memory.md R63). -/

namespace Sys2Proof.Machine

/-- `PENDING <- none; STATUS.BUSY <- 0` (R178). -/
def complete (s : State) : State :=
  { s with regs := { s.regs with pending := none }, lag := 0 }

/-- The engine step on the command word v (R178): an illegal word raises CMD with no other effect
(R225), a command has the effect of its rule, and PENDING is empty afterwards. -/
def engineStep (v : Word) (s : State) : Host.Outcome State Fault Refusal :=
  match decode v with
  | .error _ => .next (complete (onRegs (raiseError .cmd) s))
  | .ok i =>
    match exec i s with
    | .next t => .next (complete t)
    | .fault why => .fault why
    | .refused why => .refused why

/-- Whose turn it is. -/
inductive Turn where
  /-- The engine completes the command word v. -/
  | engine (v : Word)
  /-- The outside world acts: the event e, with `rest` to follow. -/
  | host (e : HostEvent) (rest : List HostEvent)
  /-- Nothing is pending and nothing is asked: the core "waits for host accesses" (R251). -/
  | idle
  deriving DecidableEq, Repr

/-- The engine is enabled exactly when PENDING holds a word (R178). It acts once the free number of
host steps has passed, or at once when the outside world does nothing more, so that every command
completes after finitely many host steps (weak fairness, R178, R262). -/
def turn (s : State) : Turn :=
  match s.regs.pending, s.inputs with
  | some v, [] => .engine v
  | some v, e :: rest => if s.lag = 0 then .engine v else .host e rest
  | none, e :: rest => .host e rest
  | none, [] => .idle

end Sys2Proof.Machine
end

