-- ==== Sys2Proof/Machine/Step.lean ====
section
/-! DEFINITION. One step of the machine: one host access or one engine step, in one total order
(spec/20_memory.md R63). -/

namespace Sys2Proof.Machine

/-- One step: the agent whose turn it is acts. When nothing is pending and the outside world asks
nothing, the state persists (R240, R251). -/
def step (s : State) : Host.Outcome State Fault Refusal :=
  match turn s with
  | .engine v => engineStep v s
  | .host e rest => hostStep e rest s
  | .idle => .next s

/-- The state in which the next step runs the command word `w` (its `nbits` low bits): the core
"fetches no instructions" (R21), so the word stands where the engine takes its next command from, in
PENDING, as after a CMD write (R57), and it is the engine's turn. -/
def State.withFetchWord (s : State) (nbits w : Nat) : State :=
  { s with regs := { s.regs with pending := some (BitVec.ofNat 32 (w % 2 ^ nbits)) }, lag := 0 }

end Sys2Proof.Machine
end

