-- ==== Sys2Proof/Machine/Message.lean ====
section
/-! DEFINITION. The message-level functions of the source, which say what the core computes over a
whole message (spec/43_cbc_padding_commands.md R170 to R172). No command calls them; they are what the
commands are compared with (R197). -/

namespace Sys2Proof.Machine

/-- `padLen = 16 − (len mod 16)`, always in 1..16 (R170). -/
def padLen (len : Nat) : Nat := 16 - len % 16

/-- `pad(m) = m ++ rep(padLen, padLen)` (R170). -/
def padMessage (m : List Byte) : List Byte :=
  m ++ List.replicate (padLen m.length) (BitVec.ofNat 8 (padLen m.length))

/-- Block j of a byte sequence: bytes 16j .. 16j+15 (R171). A byte beyond the end reads 0. -/
def blockAt (m : List Byte) (j : Nat) : Block := Vector.ofFn fun i => m.getD (16 * j + i.val) 0

/-- The whole blocks of a byte sequence, in order (R171). -/
def blocksOf (m : List Byte) : List Block := (List.range (m.length / 16)).map (blockAt m)

/-- The loop of R171: `C_j <- EncryptBlock(P_j XOR chain, w); chain <- C_j`. -/
def cbcEncrypt (w : Schedule) : Block → List Block → List Block
  | _, [] => []
  | ch, p :: ps => cbcEncStep w p ch :: cbcEncrypt w (cbcEncStep w p ch) ps

/-- The loop of R172: `Q_j <- DecryptBlock(C_j, w) XOR chain; chain <- C_j`. -/
def cbcDecrypt (w : Schedule) : Block → List Block → List Block
  | _, [] => []
  | ch, c :: cs => cbcDecStep w c ch :: cbcDecrypt w c cs

/-- EncryptMessage, as a list of ciphertext blocks (R171). -/
def encryptMessage (key : KeyBytes) (iv : Block) (m : List Byte) : List Block :=
  cbcEncrypt (expand key) iv (blocksOf (padMessage m))

/-- The bytes of a list of blocks, in order. -/
def bytesOfBlocks (bs : List Block) : List Byte := bs.flatMap Vector.toList

/-- The unpadding of R172 on the assembled output: read the last byte as padLen, fail (`none`) if it
is 0, exceeds 16 or exceeds the total length, else drop the last padLen bytes. With no last byte
there is nothing to read: the source leaves that case undefined (spec/91_not_in_source.md N10) and
the core cannot present it (R191); it fails here (log entry 9). -/
def unpadMessage (q : List Byte) : Option (List Byte) :=
  match q.getLast? with
  | none => none
  | some p =>
    if p.toNat = 0 ∨ 16 < p.toNat ∨ q.length < p.toNat then none
    else some (q.take (q.length - p.toNat))

/-- DecryptMessage of a list of ciphertext blocks (R172). -/
def decryptMessage (key : KeyBytes) (iv : Block) (cs : List Block) : Option (List Byte) :=
  unpadMessage (bytesOfBlocks (cbcDecrypt (expand key) iv cs))

end Sys2Proof.Machine
end

