-- ==== Sys2Proof/Machine/HostProgram.lean ====
section
/-! DEFINITION. How a host drives the core: the assembler's operations and pseudo-instructions as host
accesses (spec/30_encoding.md R86, R87), the host procedure of spec/43_cbc_padding_commands.md R197,
and the place of the window in a platform's address space (spec/20_memory.md R51, R61). -/

namespace Sys2Proof.Machine

/-- The offset of a register (R52). A reserved offset has no name in R86; the first one stands here. -/
def offsetOf : WinReg → Nat
  | .cmd => 0x00
  | .status => 0x04
  | .blkcnt => 0x08
  | .key k => 0x10 + 4 * k.val
  | .iv k => 0x30 + 4 * k.val
  | .din k => 0x40 + 4 * k.val
  | .dout k => 0x50 + 4 * k.val
  | .chain k => 0x60 + 4 * k.val
  | .reserved => 0x0C

/-- `WR <reg>, <imm32>` (R86). -/
def wr (x : WinReg) (v : Word) : HostEvent := .write (offsetOf x) 4 v

/-- `RD <reg>` (R86). -/
def rd (x : WinReg) : HostEvent := .read (offsetOf x) 4

/-- `<command>!`: the CMD write, then WAIT (R86, R87). -/
def issue (i : Instr) : List HostEvent := [wr .cmd (encode i), .wait]

/-- `LDKEY`: the eight key words in offset order (R87). -/
def ldKey (k : KeyBytes) : List HostEvent :=
  (List.finRange 8).map fun j => wr (.key j) (keyWordsOf k)[j]

/-- `LDIV` (R87). -/
def ldIv (b : Block) : List HostEvent := (List.finRange 4).map fun j => wr (.iv j) (wordsOf b)[j]

/-- `LDIN` (R87). -/
def ldIn (b : Block) : List HostEvent := (List.finRange 4).map fun j => wr (.din j) (wordsOf b)[j]

/-- `RDOUT` (R87). -/
def rdOut : List HostEvent := (List.finRange 4).map fun j => rd (.dout j)

/-- One block of a session: LDIN, the data command, WAIT, RDOUT (R197). -/
def sendBlock (i : Instr) (b : Block) : List HostEvent := ldIn b ++ issue i ++ rdOut

/-- The host procedure of R197 for an encryption: `last` is the block written before FINAL, "the
remaining |m| mod 16 bytes, then any bytes". -/
def encryptProcedure (key : KeyBytes) (iv : Block) (m : List Byte) (last : Block) :
    List HostEvent :=
  ldKey key ++ ldIv iv ++ issue .beginEnc ++
    ((List.range (m.length / 16)).flatMap fun j => sendBlock .block (blockAt m j)) ++
    sendBlock (.final (m.length % 16)) last

/-- The host procedure of R197 for a decryption of the blocks `cs` and then the last block `c`. -/
def decryptProcedure (key : KeyBytes) (iv : Block) (cs : List Block) (c : Block) :
    List HostEvent :=
  ldKey key ++ ldIv iv ++ issue .beginDec ++ (cs.flatMap fun b => sendBlock .block b) ++
    sendBlock (.final 0) c

/-- What the host has read from DOUT, the oldest word first. -/
def doutReads (reads : List ReadResult) : List Word :=
  (reads.reverse.filter fun x => 0x50 ≤ x.off && x.off < 0x60).map fun x => x.value

/-- The offset of a platform address when the window stands at BASE, if it lies in the window. BASE is
an open parameter (R8, R51, R61), and so an argument: no rule depends on it. -/
def windowOffset (base addr : Nat) : Option Nat :=
  if base ≤ addr ∧ addr < base + 256 then some (addr - base) else none

end Sys2Proof.Machine
end

