-- ==== Sys2Proof/Safety.lean ====
section
/-! DEFINITION. What a safe state and a safe environment are, in the terms the statements use: the
invariant of the registers that spec/10_state.md and spec/43_cbc_padding_commands.md give together,
and the host accesses the interface can express (spec/20_memory.md R51, R55). -/

namespace Sys2Proof.Machine

/-- The key a schedule was expanded from: its first eight words (R104). -/
def scheduleKey (w : Schedule) : KeyBytes :=
  keyBytesOf (Vector.ofFn fun k : Fin 8 => w[k.val])

/-- What the registers of every state reached from reset satisfy. -/
structure RegsInv (r : Regs) : Prop where
  /-- "OUTLEN only 0..16" (R29). -/
  outlen_le : r.status.outlen.toNat ≤ 16
  /-- The bytes of DOUT at index OUTLEN and above are 0x00 (R25, R192). -/
  dout_zero : ∀ i : Fin 16, r.status.outlen.toNat ≤ i.val → (bytesOf r.dout)[i.val] = 0
  /-- With no valid output, LAST and OUTLEN are 0 (R33, R38). -/
  no_output : r.status.dv = false → r.status.last = false ∧ r.status.outlen = 0
  /-- A valid output is the last of its session exactly when the session is over (R31, R33). -/
  last_iff : r.status.dv = true → (r.status.last = true ↔ r.status.active = false)
  /-- An output inside a session is a whole block (R38). -/
  full_block : r.status.dv = true → r.status.last = false → r.status.outlen = 16
  /-- A session opens only with the key and the IV complete, and no write takes a presence bit away
  (R35, R36). -/
  masks : r.status.active = true → r.status.keyw = 0xFF ∧ r.status.ivw = 0xF
  /-- Inside a session, W is the expansion of one key (R40, R108). -/
  schedule : r.status.active = true → r.w = expand (scheduleKey r.w)
  /-- Outside a session, W is all zero (R40). -/
  schedule_idle : r.status.active = false → r.w = Vector.replicate 60 0
  /-- After an encrypting data command, CHAIN is the block that was output (R26, R185, R186). -/
  enc_chain : r.status.dv = true → r.status.mode = .enc → r.chain = r.dout
  /-- A session with no output yet has completed no block (R27). -/
  fresh : r.status.active = true → r.status.dv = false → r.blkcnt = 0
  /-- With no session and no output, CHAIN is zero (R26). -/
  idle_chain : r.status.active = false → r.status.dv = false → r.chain = Vector.replicate 4 0

/-- The invariant of the machine: that of the registers, and that no wait is counted when no command
is pending (R42). -/
structure Inv (s : State) : Prop where
  regs : RegsInv s.regs
  lag_idle : s.regs.pending = none → s.lag = 0

/-- A state in which the engine completes the command word v next (R178). -/
def EngineTurn (s : State) (v : Word) : Prop :=
  s.regs.pending = some v ∧ (s.lag = 0 ∨ s.inputs = [])

/-- A state in which the outside world acts next, with the event e. -/
def HostTurn (s : State) (e : HostEvent) (rest : List HostEvent) : Prop :=
  s.inputs = e :: rest ∧ (s.regs.pending = none ∨ s.lag ≠ 0)

/-- Two machines that differ at most in the working registers STATE and ROUND (R41). -/
def SameButWork (s t : State) : Prop := { t with work := s.work, round := s.round } = s

/-- Two sets of registers that differ at most in KEY and W, which no host read may show (R62). -/
def SameButSecret (r q : Regs) : Prop := { q with key := r.key, w := r.w } = r

/-- The polynomial product of two bytes over GF(2), not yet reduced (R123). -/
def polyMul (a k : Byte) : BitVec 16 :=
  (List.range 8).foldl
    (fun acc j => if k.getLsbD j then acc ^^^ (a.setWidth 16 <<< j) else acc) 0

/-- The remainder of a polynomial of degree below 16 modulo m(x) = 0x11B: the terms of degree
15 .. 8 are taken away from the highest down (R123). -/
def polyMod (p : BitVec 16) : Byte :=
  ((List.range 8).foldl
    (fun q i => if q.getLsbD (15 - i) then q ^^^ (0x11B#16 <<< (7 - i)) else q) p).setWidth 8

/-- Rotation of a byte to the left by k places, written `rotl8` in R121. -/
def rotl8 (b : Byte) (k : Nat) : Byte := b.rotateLeft k

/-- An event the interface can express (R51, R55). -/
def expressible : HostEvent → Bool
  | .read off bytes => (accessRefusal off bytes).isNone
  | .write off bytes _ => (accessRefusal off bytes).isNone
  | .wait => true
  | .reset => true

/-- A safe environment: every access still to come can be expressed at the interface. -/
def SafeInputs (s : State) : Prop := ∀ e ∈ s.inputs, expressible e = true

end Sys2Proof.Machine
end

