-- ==== Sys2Proof/Certificates/Slice0/Obligations.lean ====
section
/-! DEFINITION. The statements for the provers. Each one's docstring names the rules of spec/ it
formalises. In the statements about commands, `t.regs = { s.regs with … }` names every register a
command writes, so everything it does not name is the frame: it is unchanged. STATE and ROUND are free
after a command that runs the pipeline (log entry 3), and no rule says that BEGIN or ABORT keeps them, so
the statements about such commands say nothing of them. -/

open Sys2Proof Sys2Proof.Machine

/-! ## The command word -/

/-- Words written out from R80 and R82: they decode to the commands they stand for (sanity). -/
def Obligations.WordsOfTheOpcodeMapDecode : Prop :=
  decode 0b00000000000000000000000000000000#32 = .ok .nop ∧
  decode 0b00000000000000000000000000000001#32 = .ok .beginEnc ∧
  decode 0b00000000000000000000000000000010#32 = .ok .beginDec ∧
  decode 0b00000000000000000000000000000011#32 = .ok .block ∧
  decode 0b00000000000000000000010100000100#32 = .ok (.final 5) ∧
  decode 0b00000000000000000000111100000100#32 = .ok (.final 15) ∧
  decode 0b00000000000000000000000000000101#32 = .ok .abort ∧
  decode 0b00000000000000000000000000000110#32 = .ok .clear

/-- R80 to R83: decoding the word of a well-formed command gives the command back, FINAL with every
byte count the LEN field admits. -/
def Obligations.DecodeUndoesEncode : Prop :=
  ∀ i : Instr, i.wf = true → decode (encode i) = .ok i

/-- R80 to R83, R85: a word that decodes to a command is the one word of that command, and the command
is well-formed. -/
def Obligations.EncodeUndoesDecode : Prop :=
  ∀ (v : Word) (i : Instr), decode v = .ok i → i.wf = true ∧ encode i = v

/-- R82: a word that decodes to a command matches exactly one row of the opcode map, the row of that
command's mnemonic, and an illegal word matches none. -/
def Obligations.LegalWordsMatchExactlyOneRow : Prop :=
  ∀ v : Word,
    (∀ i, decode v = .ok i →
      (opcodeTable.filter fun row => row.matchesWord v).map OpcodeRow.mnemonic = [i.mnemonic]) ∧
    (∀ why, decode v = .error why → (opcodeTable.filter fun row => row.matchesWord v) = [])

/-- R84, R225: exactly the words with a non-zero RSV0 or RSV1, an opcode 0x7..0xF, or a non-zero LEN
with an opcode other than FINAL are illegal, and the engine completes such a word with ERR = CMD and
no other effect. -/
def Obligations.IllegalWordsOnlySetErrCmd : Prop :=
  ∀ v : Word,
    ((∃ why, decode v = .error why) ↔
      v.extractLsb' 12 20 ≠ 0 ∨ v.extractLsb' 4 4 ≠ 0 ∨ 7 ≤ (v.extractLsb' 0 4).toNat ∨
        (v.extractLsb' 8 4 ≠ 0 ∧ v.extractLsb' 0 4 ≠ 4)) ∧
    (∀ (why : Illegal) (s : State), decode v = .error why → EngineTurn s v →
      step s = .next { s with
        regs := { s.regs with
          pending := none, status := { s.regs.status with err := .cmd } }, lag := 0 })

/-- R178, R57: when it is the engine's turn and PENDING decodes to a command, the step is `exec` of
that command, after which PENDING is empty and BUSY is 0. The second clause says the same of the state
in which the host's interface places a command word. -/
def Obligations.StepRunsTheDecodedCommand : Prop :=
  (∀ (s : State) (v : Word) (i : Instr), EngineTurn s v → decode v = .ok i →
    step s = match exec i s with
      | .next t => .next { t with regs := { t.regs with pending := none }, lag := 0 }
      | .fault why => .fault why
      | .refused why => .refused why) ∧
  (∀ (s : State) (v : Word), EngineTurn (s.withFetchWord 32 v.toNat) v)

/-! ## The datapath and the tables -/

/-- R13, R53: byte 4k+j of a value held in registers is bits [31−8j : 24−8j] of word k, for a block and
for a key, and `wordsOf` is the inverse of `bytesOf`. -/
def Obligations.ByteOrderIsBigEndian : Prop :=
  (∀ (ws : Quad) (k j : Fin 4),
    (bytesOf ws)[4 * k.val + j.val] = (ws[k.val]).extractLsb' (24 - 8 * j.val) 8) ∧
  (∀ (ws : KeyWords) (k : Fin 8) (j : Fin 4),
    (keyBytesOf ws)[4 * k.val + j.val] = (ws[k.val]).extractLsb' (24 - 8 * j.val) 8) ∧
  (∀ b : Block, ∃ ws : Quad, bytesOf ws = b ∧ wordsOf b = ws ∧ ∀ ws', bytesOf ws' = b → ws' = ws)

/-- R121, R122: the S-box is the affine map of the inverse in GF(2^8), 0 mapping to 0x63; it is a
permutation with no fixed point, and `InvS` is the inverse permutation. -/
def Obligations.SBoxIsAffineImageOfInverse : Prop :=
  sbox 0 = 0x63 ∧
  (∀ a : Byte, a ≠ 0 → ∃ b : Byte, gmul a b = 1 ∧
    sbox a = b ^^^ rotl8 b 1 ^^^ rotl8 b 2 ^^^ rotl8 b 3 ^^^ rotl8 b 4 ^^^ 0x63) ∧
  (∀ a b : Byte, sbox a = sbox b → a = b) ∧ (∀ a : Byte, sbox a ≠ a) ∧
  (∀ a : Byte, invSbox (sbox a) = a ∧ sbox (invSbox a) = a)

/-- R123: `gmul` is polynomial multiplication reduced modulo x^8 + x^4 + x^3 + x + 1. -/
def Obligations.GmulIsPolynomialProductModulo : Prop :=
  ∀ a k : Byte, gmul a k = polyMod (polyMul a k)

/-- R128, R129, R11: ShiftRows and InvShiftRows as bytes of the block, and each undoes the other. -/
def Obligations.ShiftRowsRotatesRows : Prop :=
  (∀ (b : Block) (r c : Fin 4),
    (fromState (shiftRows (toState b)))[r.val + 4 * c.val] =
      b[r.val + 4 * ((c.val + r.val) % 4)]'(by omega) ∧
    (fromState (invShiftRows (toState b)))[r.val + 4 * c.val] =
      b[r.val + 4 * ((c.val + (4 - r.val)) % 4)]'(by omega)) ∧
  (∀ s : StateMatrix, invShiftRows (shiftRows s) = s ∧ shiftRows (invShiftRows s) = s)

/-- R126, R127: SubBytes and InvSubBytes are the per-byte lookups, and each undoes the other. -/
def Obligations.SubBytesIsPerByteAndInvertible : Prop :=
  (∀ (s : StateMatrix) (r c : Fin 4),
    entry (subBytes s) r c = sbox (entry s r c) ∧
      entry (invSubBytes s) r c = invSbox (entry s r c)) ∧
  (∀ s : StateMatrix, invSubBytes (subBytes s) = s ∧ subBytes (invSubBytes s) = s)

/-- R130, R131: MixColumns and InvMixColumns multiply each column by the circulant matrices with first
rows [02 03 01 01] and [0E 0B 0D 09], each undoes the other, and a column of four equal bytes is
fixed. -/
def Obligations.MixColumnsIsCirculantAndInvertible : Prop :=
  (∀ (s : StateMatrix) (r c : Fin 4),
    entry (mixColumns s) r c =
      gmul (entry s r c) 0x02 ^^^ gmul (entry s (r + 1) c) 0x03 ^^^ entry s (r + 2) c ^^^
        entry s (r + 3) c ∧
    entry (invMixColumns s) r c =
      gmul (entry s r c) 0x0E ^^^ gmul (entry s (r + 1) c) 0x0B ^^^
        gmul (entry s (r + 2) c) 0x0D ^^^ gmul (entry s (r + 3) c) 0x09) ∧
  (∀ s : StateMatrix, invMixColumns (mixColumns s) = s ∧ mixColumns (invMixColumns s) = s) ∧
  (∀ (s : StateMatrix) (c : Fin 4) (b : Byte), (∀ r, entry s r c = b) →
    ∀ r, entry (mixColumns s) r c = b)

/-- R140, R107: AddRoundKey is the byte-wise XOR of the block with round key r, whose bytes are those of
`w[4r] ++ w[4r+1] ++ w[4r+2] ++ w[4r+3]`, and it is its own inverse. -/
def Obligations.AddRoundKeyIsBytewiseXor : Prop :=
  ∀ (w : Schedule) (r : Fin 15) (s : StateMatrix),
    (∀ (row c : Fin 4), (fromState (addRoundKey w r s))[row.val + 4 * c.val] =
      (fromState s)[row.val + 4 * c.val] ^^^
        (w[4 * r.val + c.val]).extractLsb' (24 - 8 * row.val) 8) ∧
    fromState (addRoundKey w r s) = xorBlock (fromState s) (roundKey w r) ∧
    addRoundKey w r (addRoundKey w r s) = s

/-! ## The key schedule and the round pipeline -/

/-- R102, R103: RotWord rotates a word left by one byte, four times is the identity, and SubWord looks
each byte up in the S-box. -/
def Obligations.RotWordAndSubWordActOnBytes : Prop :=
  ∀ w : Word,
    rotWord w = w.rotateLeft 8 ∧ rotWord (rotWord (rotWord (rotWord w))) = w ∧
    ∀ j : Fin 4, (subWord w).extractLsb' (24 - 8 * j.val) 8 =
      sbox (w.extractLsb' (24 - 8 * j.val) 8)

/-- R101, R104, R105: the schedule of a key: the first eight words are the key, so round keys 0 and 1 are
the key itself, and every later word follows the recurrence of the expansion loop, with the seven round
constants of R101. -/
def Obligations.ExpandFollowsTheRecurrence : Prop :=
  (List.range 7).map rcon = [0x01, 0x02, 0x04, 0x08, 0x10, 0x20, 0x40] ∧
  ∀ key : KeyBytes,
    (∀ (i : Fin 8) (j : Fin 4),
      ((expand key)[i.val]).extractLsb' (24 - 8 * j.val) 8 = key[4 * i.val + j.val]) ∧
    (∀ j : Fin 16, (roundKey (expand key) 0)[j.val] = key[j.val] ∧
      (roundKey (expand key) 1)[j.val] = key[16 + j.val]) ∧
    (∀ (i : Nat) (h : 8 ≤ i ∧ i < 60),
      (i % 8 = 0 → (expand key)[i] =
        (subWord (rotWord ((expand key)[i - 1]'(by omega))) ^^^
            (rcon (i / 8 - 1) ++ 0#24 : BitVec 32)) ^^^ (expand key)[i - 8]'(by omega)) ∧
      (i % 8 = 4 → (expand key)[i] =
        subWord ((expand key)[i - 1]'(by omega)) ^^^ (expand key)[i - 8]'(by omega)) ∧
      (i % 8 ≠ 0 → i % 8 ≠ 4 → (expand key)[i] =
        (expand key)[i - 1]'(by omega) ^^^ (expand key)[i - 8]'(by omega)))

/-- R150, R155: EncryptBlock and DecryptBlock as their loops over the rounds, written with a fold over
the list of the middle rounds. -/
def Obligations.BlockCiphersAreFourteenRounds : Prop :=
  (∀ (b : Block) (w : Schedule), encryptBlock b w =
    fromState (addRoundKey w 14 (shiftRows (subBytes
      (([1, 2, 3, 4, 5, 6, 7, 8, 9, 10, 11, 12, 13] : List (Fin 15)).foldl
        (fun s r => addRoundKey w r (mixColumns (shiftRows (subBytes s))))
        (addRoundKey w 0 (toState b))))))) ∧
  (∀ (c : Block) (w : Schedule), decryptBlock c w =
    fromState (addRoundKey w 0 (invSubBytes (invShiftRows
      (([13, 12, 11, 10, 9, 8, 7, 6, 5, 4, 3, 2, 1] : List (Fin 15)).foldl
        (fun s r => invMixColumns (addRoundKey w r (invSubBytes (invShiftRows s))))
        (addRoundKey w 14 (toState c)))))))

/-- R156 (d), R151 (d): under every schedule, DecryptBlock and EncryptBlock are inverse to each other,
so EncryptBlock is a permutation of the blocks. -/
def Obligations.DecryptBlockInvertsEncryptBlock : Prop :=
  ∀ (b : Block) (w : Schedule),
    decryptBlock (encryptBlock b w) w = b ∧ encryptBlock (decryptBlock b w) w = b

/-! ## Chaining, padding and whole messages -/

/-- R187, R188, R198: the chaining XOR comes before EncryptBlock and after DecryptBlock, and a
decryption step undoes an encryption step under the same chaining value. -/
def Obligations.CbcDecStepInvertsCbcEncStep : Prop :=
  ∀ (w : Schedule) (b ch : Block),
    cbcEncStep w b ch = encryptBlock (xorBlock b ch) w ∧
    cbcDecStep w b ch = xorBlock (decryptBlock b w) ch ∧
    cbcDecStep w (cbcEncStep w b ch) ch = b

/-- The exact bit-flip property of 95_test_vectors.md CBC-6 (conflict C6): changing ciphertext block i by
a non-zero mask d changes decrypted block i, changes decrypted block i+1, if there is one, by exactly d,
and changes no other block. -/
def Obligations.CiphertextFlipReachesTwoBlocks : Prop :=
  (∀ (w : Schedule) (iv c c2 d : Block) (pre post : List Block), d ≠ Vector.replicate 16 0 →
    ∃ (qs rs : List Block) (q q' q2 : Block),
      qs.length = pre.length ∧ q ≠ q' ∧
      cbcDecrypt w iv (pre ++ c :: c2 :: post) = qs ++ q :: q2 :: rs ∧
      cbcDecrypt w iv (pre ++ xorBlock c d :: c2 :: post) = qs ++ q' :: xorBlock q2 d :: rs) ∧
  (∀ (w : Schedule) (iv c d : Block) (pre : List Block), d ≠ Vector.replicate 16 0 →
    ∃ (qs : List Block) (q q' : Block),
      qs.length = pre.length ∧ q ≠ q' ∧
      cbcDecrypt w iv (pre ++ [c]) = qs ++ [q] ∧
      cbcDecrypt w iv (pre ++ [xorBlock c d]) = qs ++ [q'])

/-- R183, R184, R192: PadFinal keeps the first n bytes and fills up with 16 − n bytes of value 16 − n,
and unpadding what PadFinal made gives n bytes back. -/
def Obligations.UnpadUndoesPadFinal : Prop :=
  ∀ (x : Block) (n : Nat), n ≤ 15 →
    (∀ i : Fin 16, (i.val < n → (padFinal x n)[i.val] = x[i.val]) ∧
      (n ≤ i.val → (padFinal x n)[i.val] = BitVec.ofNat 8 (16 - n))) ∧
    unpadCheck (padFinal x n) = some n ∧
    (∀ i : Fin 16, (stripPad (padFinal x n) n)[i.val] = if i.val < n then x[i.val] else 0)

/-- R173, R184: UnpadCheck looks at the last byte and nothing else: it fails on 0x00 and on every value
above 0x10, and keeps 16 − padLen bytes otherwise. -/
def Obligations.UnpadCheckReadsOnlyTheLastByte : Prop :=
  ∀ q : Block,
    (q[15] = 0 ∨ 16 < q[15].toNat → unpadCheck q = none) ∧
    (1 ≤ q[15].toNat → q[15].toNat ≤ 16 → unpadCheck q = some (16 - q[15].toNat)) ∧
    (∀ q' : Block, q'[15] = q[15] → unpadCheck q' = unpadCheck q)

/-- R170: padLen is in 1..16, every pad byte equals it, and the padded length is a positive multiple of
16, one block more than the whole blocks of the message. -/
def Obligations.PaddedLengthIsPositiveMultiple : Prop :=
  ∀ m : List Byte, ∃ p : Nat,
    p = 16 - m.length % 16 ∧ 1 ≤ p ∧ p ≤ 16 ∧
    padMessage m = m ++ List.replicate p (BitVec.ofNat 8 p) ∧
    (padMessage m).length = 16 * (m.length / 16 + 1)

/-- R171: EncryptMessage has ⌊|m|/16⌋ + 1 blocks, and block j is EncryptBlock of padded block j XOR the
ciphertext block before it, the IV for block 0. -/
def Obligations.EncryptMessageChainsItsBlocks : Prop :=
  ∀ (key : KeyBytes) (iv : Block) (m : List Byte),
    (encryptMessage key iv m).length = m.length / 16 + 1 ∧
    ∀ j, j ≤ m.length / 16 →
      (encryptMessage key iv m)[j]? =
        some (encryptBlock (xorBlock (blockAt (padMessage m) j)
          (if j = 0 then iv else (encryptMessage key iv m).getD (j - 1) iv)) (expand key))

/-- R172, R158: decrypted block j needs only ciphertext blocks j − 1 and j (the IV for block 0). -/
def Obligations.DecryptedBlockNeedsTwoCiphertextBlocks : Prop :=
  ∀ (w : Schedule) (iv : Block) (cs : List Block),
    (cbcDecrypt w iv cs).length = cs.length ∧
    ∀ (j : Nat) (h : j < cs.length),
      (cbcDecrypt w iv cs)[j]? =
        some (xorBlock (decryptBlock cs[j] w) (if j = 0 then iv else cs.getD (j - 1) iv))

/-- The round trip of 95_test_vectors.md L1-7: decrypting what EncryptMessage made gives the message
back, for every key, IV and message. -/
def Obligations.DecryptMessageUndoesEncryptMessage : Prop :=
  ∀ (key : KeyBytes) (iv : Block) (m : List Byte),
    decryptMessage key iv (encryptMessage key iv m) = some m

/-! ## The commands -/

/-- R180: NOP sets ERR to NONE and changes nothing else, in every state. -/
def Obligations.NopSetsErrNoneOnly : Prop :=
  ∀ s : State, exec .nop s =
    .next { s with regs := { s.regs with status := { s.regs.status with err := .none } } }

/-- R181, R182, R221, R222: BEGIN_ENC and BEGIN_DEC open a session when none is open and the key and IV
are complete, and otherwise change only ERR, with the first of SEQ, KEY_LEN and IV_LEN that applies. Of
STATE and ROUND the opening of a session says nothing. -/
def Obligations.BeginOpensSessionOrNamesTheError : Prop :=
  ∀ (i : Instr) (m : Mode), (i = .beginEnc ∧ m = .enc) ∨ (i = .beginDec ∧ m = .dec) →
  ∀ s : State,
    (s.regs.status.active = true → exec i s =
      .next { s with regs := { s.regs with status := { s.regs.status with err := .seq } } }) ∧
    (s.regs.status.active = false → s.regs.status.keyw ≠ 0xFF → exec i s =
      .next { s with regs := { s.regs with status := { s.regs.status with err := .keyLen } } }) ∧
    (s.regs.status.active = false → s.regs.status.keyw = 0xFF → s.regs.status.ivw ≠ 0xF →
      exec i s =
        .next { s with regs := { s.regs with status := { s.regs.status with err := .ivLen } } }) ∧
    (s.regs.status.active = false → s.regs.status.keyw = 0xFF → s.regs.status.ivw = 0xF →
      ∃ t, exec i s = .next t ∧ t.inputs = s.inputs ∧ t.lag = s.lag ∧ t.reads = s.reads ∧
      t.regs = { s.regs with
        w := expand (keyBytesOf s.regs.key), chain := s.regs.iv, blkcnt := 0,
        dout := Vector.replicate 4 0,
        status := { s.regs.status with
          active := true, mode := m, dv := false, last := false, outlen := 0, err := .none } })

/-- R185: BLOCK outside a session changes only ERR, to SEQ; inside one it encrypts or decrypts DIN under
CHAIN and W, and chains on with the ciphertext block. -/
def Obligations.BlockProcessesDinUnderChain : Prop :=
  ∀ s : State,
    (s.regs.status.active = false → exec .block s =
      .next { s with regs := { s.regs with status := { s.regs.status with err := .seq } } }) ∧
    (s.regs.status.active = true → ∃ t, exec .block s = .next t ∧
      t.inputs = s.inputs ∧ t.lag = s.lag ∧ t.reads = s.reads ∧
      (s.regs.status.mode = .enc → t.regs = { s.regs with
        dout := wordsOf (encryptBlock (xorBlock (bytesOf s.regs.din) (bytesOf s.regs.chain))
          s.regs.w),
        chain := wordsOf (encryptBlock (xorBlock (bytesOf s.regs.din) (bytesOf s.regs.chain))
          s.regs.w),
        blkcnt := s.regs.blkcnt + 1,
        status := { s.regs.status with dv := true, last := false, outlen := 16, err := .none } }) ∧
      (s.regs.status.mode = .dec → t.regs = { s.regs with
        dout := wordsOf (xorBlock (decryptBlock (bytesOf s.regs.din) s.regs.w)
          (bytesOf s.regs.chain)),
        chain := s.regs.din, blkcnt := s.regs.blkcnt + 1,
        status := { s.regs.status with dv := true, last := false, outlen := 16, err := .none } }))

/-- R186, R190: FINAL #n outside a session changes only ERR, to SEQ; in an encrypting session it pads
the first n bytes of DIN, encrypts, outputs a whole block and ends the session, for every n in
0..15. -/
def Obligations.FinalEncryptsThePaddedBlock : Prop :=
  ∀ (s : State) (n : Nat), n ≤ 15 →
    (s.regs.status.active = false → exec (.final n) s =
      .next { s with regs := { s.regs with status := { s.regs.status with err := .seq } } }) ∧
    (s.regs.status.active = true → s.regs.status.mode = .enc →
      ∃ (t : State) (y : Block), exec (.final n) s = .next t ∧
        t.inputs = s.inputs ∧ t.lag = s.lag ∧ t.reads = s.reads ∧
        y = encryptBlock (xorBlock
          (Vector.ofFn fun i : Fin 16 =>
            if i.val < n then (bytesOf s.regs.din)[i.val] else BitVec.ofNat 8 (16 - n))
          (bytesOf s.regs.chain)) s.regs.w ∧
        t.regs = { s.regs with
          dout := wordsOf y, chain := wordsOf y, blkcnt := s.regs.blkcnt + 1,
          w := Vector.replicate 60 0,
          status := { s.regs.status with
            active := false, dv := true, last := true, outlen := 16, err := .none } })

/-- R186, R191, R192: FINAL #0 in a decrypting session with a last plaintext byte p in 1..16 outputs the
first 16 − p bytes and zeros after them, sets OUTLEN to 16 − p, keeps the ciphertext block as CHAIN and
ends the session. -/
def Obligations.FinalDecryptsAndStripsThePadding : Prop :=
  ∀ (s : State) (q : Block), s.regs.status.active = true → s.regs.status.mode = .dec →
    q = xorBlock (decryptBlock (bytesOf s.regs.din) s.regs.w) (bytesOf s.regs.chain) →
    1 ≤ q[15].toNat → q[15].toNat ≤ 16 →
    ∃ t, exec (.final 0) s = .next t ∧
      t.inputs = s.inputs ∧ t.lag = s.lag ∧ t.reads = s.reads ∧
      t.regs = { s.regs with
        dout := wordsOf (Vector.ofFn fun i : Fin 16 =>
          if i.val < 16 - q[15].toNat then q[i.val] else 0),
        chain := s.regs.din, blkcnt := s.regs.blkcnt + 1, w := Vector.replicate 60 0,
        status := { s.regs.status with
          active := false, dv := true, last := true,
          outlen := BitVec.ofNat 5 (16 - q[15].toNat), err := .none } }

/-- R193, R224, R227, R230: a decrypting FINAL with n ≠ 0 reports BLOCK_LEN, whatever the block would
decrypt to, and one whose last plaintext byte is 0 or above 16 reports PAD; both end the session with
DOUT, CHAIN and W zeroed and no output, and change no other register. -/
def Obligations.DecryptingFinalFailsClosed : Prop :=
  ∀ (s : State) (n : Nat) (q : Block) (e : ErrCode),
    s.regs.status.active = true → s.regs.status.mode = .dec →
    q = xorBlock (decryptBlock (bytesOf s.regs.din) s.regs.w) (bytesOf s.regs.chain) →
    (n ≠ 0 ∧ n ≤ 15 ∧ e = .blockLen) ∨ (n = 0 ∧ (q[15].toNat = 0 ∨ 16 < q[15].toNat) ∧ e = .pad) →
    ∃ t, exec (.final n) s = .next t ∧
      t.inputs = s.inputs ∧ t.lag = s.lag ∧ t.reads = s.reads ∧
      t.regs = { s.regs with
        dout := Vector.replicate 4 0, chain := Vector.replicate 4 0, w := Vector.replicate 60 0,
        status := { s.regs.status with
          active := false, dv := false, last := false, outlen := 0, err := e } }

/-- R195: ABORT ends any session without output, zeroes DOUT, CHAIN, W and BLKCNT, and changes no other
register; it is legal in every state. Of STATE and ROUND it says nothing. -/
def Obligations.AbortEndsTheSession : Prop :=
  ∀ s : State, ∃ t, exec .abort s = .next t ∧
    t.inputs = s.inputs ∧ t.lag = s.lag ∧ t.reads = s.reads ∧
    t.regs = { s.regs with
      dout := Vector.replicate 4 0, chain := Vector.replicate 4 0, w := Vector.replicate 60 0,
      blkcnt := 0,
      status := { s.regs.status with
        active := false, dv := false, last := false, outlen := 0, err := .none } }

/-- R196, R45: CLEAR puts every register in its reset value, in every state; PENDING is left to the
engine step, and when that is over STATUS reads 0x00000000. -/
def Obligations.ClearRestoresTheResetValues : Prop :=
  ∀ s : State, ∃ t, exec .clear s = .next t ∧
    t.inputs = s.inputs ∧ t.lag = s.lag ∧ t.reads = s.reads ∧
    t.regs = { State.reset.regs with pending := s.regs.pending } ∧
    ∀ (v : Word) (u : State), decode v = .ok .clear → engineStep v s = .next u →
      u.regs = State.reset.regs ∧ statusWord u.regs = 0

/-- R178: every command completes: in every state, with every operand, it answers a next state. -/
def Obligations.EveryCommandCompletes : Prop :=
  ∀ (i : Instr) (s : State), ∃ t, exec i s = .next t

/-! ## Rules over all commands -/

/-- The frame of all commands but CLEAR (R22 to R24, R34 to R36): KEY, IV, DIN, the presence bits, OVR,
PENDING, the host's accesses and what it has read are unchanged; every offset of the window but those
of STATUS, BLKCNT, DOUT and CHAIN reads as before, and after NOP every offset but STATUS's; NOP and
BLOCK leave W. -/
def Obligations.CommandsLeaveTheirFrame : Prop :=
  ∀ (i : Instr) (s t : State), i ≠ .clear → exec i s = .next t →
    t.regs.key = s.regs.key ∧ t.regs.iv = s.regs.iv ∧ t.regs.din = s.regs.din ∧
    t.regs.pending = s.regs.pending ∧ t.regs.status.keyw = s.regs.status.keyw ∧
    t.regs.status.ivw = s.regs.status.ivw ∧ t.regs.status.ovr = s.regs.status.ovr ∧
    t.inputs = s.inputs ∧ t.lag = s.lag ∧ t.reads = s.reads ∧
    (i = .nop ∨ i = .block → t.regs.w = s.regs.w) ∧
    (∀ off, off % 4 = 0 → off < 256 → off ≠ 0x04 →
      i = .nop ∨ (off ≠ 0x08 ∧ (off < 0x50 ∨ 0x70 ≤ off)) →
      idleRead t.regs off = idleRead s.regs off)

/-- R44, R31, R32: the transitions of the session state (ACTIVE, MODE), command by command and outcome by
outcome, an illegal word (CMD) among them. -/
def Obligations.SessionStateFollowsItsTable : Prop :=
  (∀ (v : Word) (why : Illegal) (s t : State), decode v = .error why → engineStep v s = .next t →
    t.regs.status.err = .cmd ∧ t.regs.status.active = s.regs.status.active ∧
      t.regs.status.mode = s.regs.status.mode) ∧
  ∀ (i : Instr) (s t : State), exec i s = .next t →
    ∀ (a a' : Bool) (m m' : Mode) (e : ErrCode),
      a = s.regs.status.active → m = s.regs.status.mode → a' = t.regs.status.active →
      m' = t.regs.status.mode → e = t.regs.status.err →
    (i = .beginEnc → e = .none → a = false ∧ a' = true ∧ m' = .enc) ∧
    (i = .beginDec → e = .none → a = false ∧ a' = true ∧ m' = .dec) ∧
    (i = .beginEnc ∨ i = .beginDec → a = true → e = .seq) ∧
    (i = .block → e = .none → a = true ∧ a' = true ∧ m' = m) ∧
    (∀ n, i = .final n → e = .none → a = true ∧ a' = false ∧ m' = m) ∧
    (∀ n, i = .final n → e = .blockLen ∨ e = .pad → a = true ∧ m = .dec ∧ a' = false ∧ m' = m) ∧
    (i = .block ∨ (∃ n, i = .final n) → a = false → e = .seq) ∧
    (i = .abort → a' = false ∧ m' = m) ∧
    (i = .clear → a' = false ∧ m' = .enc) ∧
    (i = .nop ∨ e = .seq ∨ e = .keyLen ∨ e = .ivLen → a' = a ∧ m' = m)

/-- R232, R220: an erroring command is all or nothing: SEQ, KEY_LEN and IV_LEN change nothing but ERR,
BLOCK_LEN and PAD perform exactly EndSessionClear, and no command reports CMD. -/
def Obligations.ErrorsAreAllOrNothing : Prop :=
  ∀ (i : Instr) (s t : State), exec i s = .next t →
    (t.regs.status.err = .seq ∨ t.regs.status.err = .keyLen ∨ t.regs.status.err = .ivLen →
      t = { s with regs := { s.regs with
        status := { s.regs.status with err := t.regs.status.err } } }) ∧
    (t.regs.status.err = .blockLen ∨ t.regs.status.err = .pad →
      t.regs = { s.regs with
        dout := Vector.replicate 4 0, chain := Vector.replicate 4 0, w := Vector.replicate 60 0,
        status := { s.regs.status with
          active := false, dv := false, last := false, outlen := 0,
          err := t.regs.status.err } }) ∧
    t.regs.status.err ≠ .cmd

/-- R33, R38: DV, LAST and OUTLEN after every outcome of every command, an illegal word (CMD) among
them. -/
def Obligations.OutputFlagsFollowTheOutcome : Prop :=
  (∀ (v : Word) (why : Illegal) (s t : State), decode v = .error why → engineStep v s = .next t →
    t.regs.status.dv = s.regs.status.dv ∧ t.regs.status.last = s.regs.status.last ∧
      t.regs.status.outlen = s.regs.status.outlen) ∧
  ∀ (i : Instr) (s t : State), exec i s = .next t →
    ∀ e : ErrCode, e = t.regs.status.err →
    (i = .block → e = .none → t.regs.status.dv = true ∧ t.regs.status.last = false ∧
      t.regs.status.outlen = 16) ∧
    (∀ n, i = .final n → e = .none → t.regs.status.dv = true ∧ t.regs.status.last = true ∧
      (s.regs.status.mode = .enc → t.regs.status.outlen = 16) ∧
      (s.regs.status.mode = .dec → t.regs.status.outlen.toNat ≤ 15 ∧
        t.regs.status.outlen.toNat = 16 - (xorBlock (decryptBlock (bytesOf s.regs.din) s.regs.w)
          (bytesOf s.regs.chain))[15].toNat)) ∧
    (((i = .beginEnc ∨ i = .beginDec) ∧ e = .none) ∨ i = .abort ∨ i = .clear ∨ e = .pad ∨
      e = .blockLen →
        t.regs.status.dv = false ∧ t.regs.status.last = false ∧ t.regs.status.outlen = 0) ∧
    (i = .nop ∨ e = .seq ∨ e = .keyLen ∨ e = .ivLen →
      t.regs.status.dv = s.regs.status.dv ∧ t.regs.status.last = s.regs.status.last ∧
        t.regs.status.outlen = s.regs.status.outlen)

/-- R27: BLKCNT is set to 0 by BEGIN_*, ABORT and CLEAR, raised by 1 modulo 2^32 by each successful BLOCK
or FINAL, changed by no other command, no error and no host write, and no command's effect on the other
registers depends on it. -/
def Obligations.BlkcntCountsCompletedBlocks : Prop :=
  (∀ (i : Instr) (s t : State), exec i s = .next t →
    ((i = .beginEnc ∨ i = .beginDec) ∧ t.regs.status.err = .none → t.regs.blkcnt = 0) ∧
    (i = .abort ∨ i = .clear → t.regs.blkcnt = 0) ∧
    ((i = .block ∨ ∃ n, i = .final n) ∧ t.regs.status.err = .none →
      t.regs.blkcnt.toNat = (s.regs.blkcnt.toNat + 1) % 2 ^ 32) ∧
    (i = .nop ∨ t.regs.status.err ≠ .none → t.regs.blkcnt = s.regs.blkcnt) ∧
    (∀ c : Word, ∃ t', exec i { s with regs := { s.regs with blkcnt := c } } = .next t' ∧
      { t'.regs with blkcnt := t.regs.blkcnt } = t.regs)) ∧
  (∀ (v : Word) (why : Illegal) (s t : State), decode v = .error why → engineStep v s = .next t →
    t.regs.blkcnt = s.regs.blkcnt) ∧
  (∀ (s : State) (off : Nat) (v : Word), (busWrite off v s).regs.blkcnt = s.regs.blkcnt)

/-- R34: OVR is set by a host write, to any offset, that arrives while BUSY = 1, and by nothing else; it
is cleared only by CLEAR and by reset; and no other command depends on it. -/
def Obligations.OvrIsStickyUntilClearOrReset : Prop :=
  (∀ (s : State) (off : Nat) (v : Word) (rest : List HostEvent),
    HostTurn s (.write off 4 v) rest → off % 4 = 0 → off < 256 → busy s.regs = true →
    ∃ t, step s = .next t ∧ t.regs.status.ovr = true) ∧
  (∀ s t : State, step s = .next t → s.regs.status.ovr = true → t.regs.status.ovr = false →
    (∃ v, EngineTurn s v ∧ decode v = .ok .clear) ∨ (∃ rest, HostTurn s .reset rest)) ∧
  (∀ s t : State, step s = .next t → s.regs.status.ovr = false → t.regs.status.ovr = true →
    busy s.regs = true ∧ ∃ off v rest, HostTurn s (.write off 4 v) rest) ∧
  (∀ (i : Instr) (s t : State) (b : Bool), i ≠ .clear → exec i s = .next t →
    ∃ t', exec i { s with regs := { s.regs with status := { s.regs.status with ovr := b } } } =
        .next t' ∧
      t'.regs = { t.regs with status := { t.regs.status with ovr := b } })

/-- R259, R22, R23: BLOCK and FINAL do not depend on KEY and IV: a write to them during a session has no
effect on that session. -/
def Obligations.KeyAndIvWritesDoNotReachTheSession : Prop :=
  ∀ (i : Instr) (s t : State) (k : KeyWords) (v : Quad),
    i = .block ∨ (∃ n, i = .final n) → exec i s = .next t →
    ∃ t', exec i { s with regs := { s.regs with key := k, iv := v } } = .next t' ∧
      t'.regs = { t.regs with key := k, iv := v }

/-- R183, R190 (d), R253: an encrypting FINAL #n does not depend on the bytes of DIN at index n and
above. -/
def Obligations.DinBeyondLenIsIgnored : Prop :=
  ∀ (s : State) (n : Nat) (d : Quad), s.regs.status.active = true → s.regs.status.mode = .enc →
    n ≤ 15 → (∀ i : Fin 16, i.val < n → (bytesOf d)[i.val] = (bytesOf s.regs.din)[i.val]) →
    ∃ t t', exec (.final n) s = .next t ∧
      exec (.final n) { s with regs := { s.regs with din := d } } = .next t' ∧
      t'.regs = { t.regs with din := d }

/-- R232 ("A later session after any error behaves as one after reset with the same KEY, IV and DIN"):
whatever happened before, a session that opens has the registers it would have if the same KEY, IV and
DIN had been written after reset. Only OVR tells the two apart, being sticky, and PENDING is the
command being executed in both. -/
def Obligations.NewSessionForgetsThePast : Prop :=
  ∀ (i : Instr) (s t : State), i = .beginEnc ∨ i = .beginDec → exec i s = .next t →
    t.regs.status.err = .none →
    ∃ t', exec i { State.reset with regs := { State.reset.regs with
        key := s.regs.key, iv := s.regs.iv, din := s.regs.din, pending := s.regs.pending,
        status := { State.reset.regs.status with
          keyw := 0xFF, ivw := 0xF, ovr := s.regs.status.ovr } } } = .next t' ∧
      t'.regs = t.regs

/-- R41: STATE and ROUND have no effect on any later result: two machines that differ only in them step
to machines that differ only in them, or are refused the same access. -/
def Obligations.WorkingRegistersHaveNoEffect : Prop :=
  ∀ s s' : State, SameButWork s s' →
    (∃ t t', step s = .next t ∧ step s' = .next t' ∧ SameButWork t t') ∨
    (∃ why, step s = .refused why ∧ step s' = .refused why)

/-! ## The register window -/

/-- R29, R30, R42, R220: the place of every field in the STATUS word; BUSY is 1 exactly when PENDING holds
a word; the reserved bits read as 0; ERR is the code R220 gives the outcome, and so only 0..6. -/
def Obligations.StatusWordHasTheSpecLayout : Prop :=
  ∀ r : Regs,
    (statusWord r).getLsbD 0 = r.pending.isSome ∧
    (statusWord r).getLsbD 1 = r.status.active ∧
    ((statusWord r).getLsbD 2 = true ↔ r.status.mode = .dec) ∧
    (statusWord r).getLsbD 3 = r.status.dv ∧ (statusWord r).getLsbD 4 = r.status.last ∧
    (statusWord r).getLsbD 5 = r.status.ovr ∧ (statusWord r).extractLsb' 6 2 = 0 ∧
    ((statusWord r).extractLsb' 8 4).toNat =
      (match r.status.err with
        | .none => 0
        | .keyLen => 1
        | .ivLen => 2
        | .pad => 3
        | .seq => 4
        | .cmd => 5
        | .blockLen => 6) ∧
    (statusWord r).extractLsb' 12 4 = r.status.ivw ∧
    (statusWord r).extractLsb' 16 5 = r.status.outlen ∧
    (statusWord r).extractLsb' 21 3 = 0 ∧ (statusWord r).extractLsb' 24 8 = r.status.keyw

/-- R57, R35, R36: a host write while BUSY = 0, offset by offset: CMD issues the command, KEYk and IVk
store the word and set their presence bit, DINk stores it, every other offset has no effect. -/
def Obligations.IdleWriteStoresOrIssues : Prop :=
  ∀ (s : State) (off : Nat) (v : Word) (rest : List HostEvent),
    HostTurn s (.write off 4 v) rest → s.regs.pending = none → off % 4 = 0 → off < 256 →
    ∃ t, step s = .next t ∧ t.inputs = rest ∧ t.reads = s.reads ∧ t.work = s.work ∧
      t.round = s.round ∧
      (off = 0x00 → t.regs = { s.regs with pending := some v }) ∧
      (∀ k : Fin 8, off = 0x10 + 4 * k.val → t.regs = { s.regs with
        key := s.regs.key.set k.val v,
        status := { s.regs.status with keyw := s.regs.status.keyw ||| (1#8 <<< k.val) } }) ∧
      (∀ k : Fin 4, off = 0x30 + 4 * k.val → t.regs = { s.regs with
        iv := s.regs.iv.set k.val v,
        status := { s.regs.status with ivw := s.regs.status.ivw ||| (1#4 <<< k.val) } }) ∧
      (∀ k : Fin 4, off = 0x40 + 4 * k.val → t.regs = { s.regs with
        din := s.regs.din.set k.val v }) ∧
      ((0x04 ≤ off ∧ off ≤ 0x0C) ∨ 0x50 ≤ off → t.regs = s.regs)

/-- R58: a host write while BUSY = 1 is dropped, whatever its offset, CMD's included: no register changes
but OVR. -/
def Obligations.BusyWriteIsDropped : Prop :=
  ∀ (s : State) (off : Nat) (v : Word) (rest : List HostEvent),
    HostTurn s (.write off 4 v) rest → busy s.regs = true → off % 4 = 0 → off < 256 →
    step s = .next { s with
      regs := { s.regs with status := { s.regs.status with ovr := true } },
      inputs := rest, lag := s.lag - 1 }

/-- R52, R59, R60, R56: a host read while BUSY = 0 returns the value of the register map and changes no
register. -/
def Obligations.IdleReadReturnsTheRegisterMap : Prop :=
  ∀ (s : State) (off : Nat) (rest : List HostEvent),
    HostTurn s (.read off 4) rest → s.regs.pending = none → off % 4 = 0 → off < 256 →
    ∃ x : Word,
      step s = .next { s with inputs := rest, lag := s.lag - 1, reads := ⟨off, x⟩ :: s.reads } ∧
      (off = 0x00 → x = 0) ∧ (off = 0x04 → x = statusWord s.regs) ∧
      (off = 0x08 → x = s.regs.blkcnt) ∧ (off = 0x0C → x = 0) ∧
      (0x10 ≤ off → off < 0x30 → x = 0) ∧
      (∀ k : Fin 4, (off = 0x30 + 4 * k.val → x = s.regs.iv[k.val]) ∧
        (off = 0x40 + 4 * k.val → x = s.regs.din[k.val]) ∧
        (off = 0x50 + 4 * k.val → x = s.regs.dout[k.val]) ∧
        (off = 0x60 + 4 * k.val → x = s.regs.chain[k.val])) ∧
      (0x70 ≤ off → x = 0)

/-- R59, R56: a host read while BUSY = 1 changes no register, and of the value read only bit 0 of STATUS
is said, which is 1. -/
def Obligations.BusyReadShowsOnlyBusy : Prop :=
  ∀ (s : State) (off : Nat) (rest : List HostEvent),
    HostTurn s (.read off 4) rest → busy s.regs = true → off % 4 = 0 → off < 256 →
    ∃ (t : State) (x : Word), step s = .next t ∧ t.reads = ⟨off, x⟩ :: s.reads ∧
      (off = 0x04 → x.getLsbD 0 = true) ∧ t.regs = s.regs ∧ t.work = s.work ∧
      t.round = s.round ∧ t.inputs = rest

/-- R87: WAIT reads STATUS, and is over exactly when BUSY is 0. -/
def Obligations.WaitReadsStatusUntilIdle : Prop :=
  ∀ (s : State) (rest : List HostEvent), HostTurn s .wait rest →
    ∃ (t : State) (x : Word), step s = .next t ∧ t.regs = s.regs ∧
      t.reads = ⟨0x04, x⟩ :: s.reads ∧ x.getLsbD 0 = busy s.regs ∧
      (busy s.regs = false → x = statusWord s.regs ∧ t.inputs = rest) ∧
      (busy s.regs = true → t.inputs = .wait :: rest)

/-- R51, R55, R241: an access that is not one aligned word inside the window is refused, each under its
own name, and it is the only thing a step refuses. -/
def Obligations.OnlyInexpressibleAccessesAreRefused : Prop :=
  (∀ (s : State) (off bytes : Nat) (v : Word) (rest : List HostEvent) (e : HostEvent),
    HostTurn s e rest → e = .read off bytes ∨ e = .write off bytes v →
    (bytes ≠ 4 → step s = .refused .notOneWord) ∧
    (bytes = 4 → off % 4 ≠ 0 → step s = .refused .misaligned) ∧
    (bytes = 4 → off % 4 = 0 → 256 ≤ off → step s = .refused .outsideWindow)) ∧
  (∀ (s : State) (why : Refusal), step s = .refused why →
    ∃ e rest, HostTurn s e rest ∧ expressible e = false)

/-- A safe environment keeps the machine running: while every access still to come can be expressed, a
step answers a next state, and the accesses then still to come can be expressed (R55, R241). -/
def Obligations.SafeInputsNeverStop : Prop :=
  ∀ s : State, SafeInputs s → ∃ t, step s = .next t ∧ SafeInputs t

/-- R45, R250, R251: what reset leaves, register by register, at power-on and when the reset input
arrives in any state; a command in flight is discarded, STATUS and every other offset read as 0, and
the first BEGIN_ENC or BEGIN_DEC fails with KEY_LEN. -/
def Obligations.ResetPutsEveryRegisterToZero : Prop :=
  (∀ r : Regs, r = State.reset.regs →
    r.key = Vector.replicate 8 0 ∧ r.iv = Vector.replicate 4 0 ∧ r.din = Vector.replicate 4 0 ∧
    r.dout = Vector.replicate 4 0 ∧ r.chain = Vector.replicate 4 0 ∧ r.blkcnt = 0 ∧
    r.w = Vector.replicate 60 0 ∧ r.pending = none ∧ r.status.active = false ∧
    r.status.keyw = 0 ∧ r.status.ivw = 0 ∧ r.status.ovr = false ∧
    ∀ off, off % 4 = 0 → off < 256 → idleRead r off = 0) ∧
  (∀ (s : State) (rest : List HostEvent), HostTurn s .reset rest →
    ∃ t, step s = .next t ∧ t.regs = State.reset.regs ∧ t.inputs = rest ∧ t.reads = s.reads) ∧
  (∀ (i : Instr) (s : State), i = .beginEnc ∨ i = .beginDec → s.regs = State.reset.regs →
    ∃ t, exec i s = .next t ∧ t.regs.status.err = .keyLen ∧ t.regs.status.active = false)

/-- R62, R22, R239: the host cannot read back the key or the schedule: two idle machines that differ only
in KEY and W give the same reads to every host that issues no command, over any number of steps. -/
def Obligations.KeyAndScheduleAreNotReadable : Prop :=
  ∀ (n : Nat) (s s' : State), SameButSecret s.regs s'.regs → s.regs.pending = none →
    s'.inputs = s.inputs → s'.reads = s.reads → SafeInputs s →
    (∀ off bytes v, HostEvent.write off bytes v ∈ s.inputs → off ≠ 0) →
    ∃ t t', Host.Core.run core n s = .next t ∧ Host.Core.run core n s' = .next t' ∧
      t'.reads = t.reads ∧ SameButSecret t.regs t'.regs

/-- R66, R58: while a command is pending, a step of the outside world leaves PENDING and every register
but OVR as they stood when the CMD write was taken, unless it is the reset input. -/
def Obligations.PendingCommandSeesTheRegistersAsIssued : Prop :=
  ∀ (s t : State) (v : Word) (e : HostEvent) (rest : List HostEvent),
    s.regs.pending = some v → HostTurn s e rest → e ≠ .reset → step s = .next t →
    t.regs = { s.regs with status := { s.regs.status with ovr := t.regs.status.ovr } }

/-- R178, R262 (weak fairness): a pending command is no longer pending after at most `lag + 1` steps,
whatever the outside world does that can be expressed. -/
def Obligations.PendingCommandCompletesInTime : Prop :=
  ∀ s : State, s.regs.pending ≠ none → SafeInputs s →
    ∃ (k : Nat) (t : State), 1 ≤ k ∧ k ≤ s.lag + 1 ∧ Host.Core.run core k s = .next t ∧
      t.regs.pending = none

/-! ## The invariant -/

/-- The invariant holds right after reset. -/
def Obligations.ResetSatisfiesTheInvariant : Prop := Inv State.reset

/-- Every step, of the engine and of the outside world, keeps the invariant: OUTLEN at most 16 and the
bytes of DOUT above it zero, the presence bits complete and W the expansion of one key inside a
session, W zero outside one, CHAIN the last ciphertext block, DV, LAST and BLKCNT as the session's
course requires (R25 to R40, R44). -/
def Obligations.EveryStepKeepsTheInvariant : Prop :=
  ∀ s t : State, Inv s → step s = .next t → Inv t

/-! ## The host procedure -/

/-- R197: from any machine with no command pending and no session open, the host procedure for a
message runs to its end, with any free timing of the engine, and the blocks the host reads from DOUT
are those of EncryptMessage. -/
def Obligations.HostProcedureComputesEncryptMessage : Prop :=
  ∀ (key : KeyBytes) (iv : Block) (m : List Byte) (last : Block) (s : State),
    (∀ i : Fin 16, i.val < m.length % 16 → last[i.val] = m.getD (16 * (m.length / 16) + i.val) 0) →
    s.regs.pending = none → s.regs.status.active = false → s.reads = [] →
    s.inputs = encryptProcedure key iv m last →
    ∃ (n : Nat) (t : State), Host.Core.run core n s = .next t ∧ t.inputs = [] ∧
      t.regs.pending = none ∧ t.regs.status.active = false ∧ t.regs.status.err = .none ∧
      doutReads t.reads = (encryptMessage key iv m).flatMap fun c => (wordsOf c).toList

/-- R197: the same for decryption: the host procedure for the ciphertext `cs ++ [c]` ends with ERR = PAD
exactly when DecryptMessage fails, and otherwise the DOUT words read before the last block's and the
first OUTLEN bytes of the last output are the message. -/
def Obligations.HostProcedureComputesDecryptMessage : Prop :=
  ∀ (key : KeyBytes) (iv : Block) (cs : List Block) (c : Block) (s : State),
    s.regs.pending = none → s.regs.status.active = false → s.reads = [] →
    s.inputs = decryptProcedure key iv cs c →
    ∃ (n : Nat) (t : State) (qs : List Block), Host.Core.run core n s = .next t ∧
      t.inputs = [] ∧ t.regs.pending = none ∧ t.regs.status.active = false ∧
      qs.length = cs.length ∧
      doutReads t.reads = (qs.flatMap fun q => (wordsOf q).toList) ++ t.regs.dout.toList ∧
      (decryptMessage key iv (cs ++ [c]) = none →
        t.regs.status.err = .pad ∧ t.regs.dout = Vector.replicate 4 0) ∧
      (∀ m, decryptMessage key iv (cs ++ [c]) = some m →
        t.regs.status.err = .none ∧
        bytesOfBlocks qs ++ (bytesOf t.regs.dout).toList.take t.regs.status.outlen.toNat = m)
end

