-- ==== Sys2Proof/Laws/Bytes.lean ====
section
/-! SUPPORT. The laws of the byte layouts: words and their bytes, registers and blocks, blocks and the
4x4 state. -/

namespace Sys2Proof.Machine

/-! Words and their bytes (R13). -/

theorem wordOf_getLsbD (b0 b1 b2 b3 : Byte) (j : Nat) :
    (wordOf b0 b1 b2 b3).getLsbD j =
      if j < 8 then b3.getLsbD j
      else if j - 8 < 8 then b2.getLsbD (j - 8)
      else if j - 8 - 8 < 8 then b1.getLsbD (j - 8 - 8)
      else b0.getLsbD (j - 8 - 8 - 8) := by
  change (b0 ++ b1 ++ b2 ++ b3 : BitVec (8 + 8 + 8 + 8)).getLsbD j = _
  simp only [BitVec.getLsbD_append]

theorem wordByte_getLsbD (w : Word) (k : Fin 4) {j : Nat} (hj : j < 8) :
    (wordByte w k).getLsbD j = w.getLsbD (24 - 8 * k.val + j) := by
  simp only [wordByte, BitVec.getLsbD_extractLsb', hj, decide_true, Bool.true_and]

@[simp] theorem wordByte_wordOf_zero (b0 b1 b2 b3 : Byte) :
    wordByte (wordOf b0 b1 b2 b3) 0 = b0 := by
  refine BitVec.eq_of_getLsbD_eq fun j hj => ?_
  rw [wordByte_getLsbD _ _ hj, wordOf_getLsbD, if_neg, if_neg, if_neg]
  · congr 1; simp; omega
  all_goals simp; try omega

@[simp] theorem wordByte_wordOf_one (b0 b1 b2 b3 : Byte) :
    wordByte (wordOf b0 b1 b2 b3) 1 = b1 := by
  refine BitVec.eq_of_getLsbD_eq fun j hj => ?_
  rw [wordByte_getLsbD _ _ hj, wordOf_getLsbD, if_neg, if_neg, if_pos]
  · congr 1; simp; omega
  all_goals simp; omega

@[simp] theorem wordByte_wordOf_two (b0 b1 b2 b3 : Byte) :
    wordByte (wordOf b0 b1 b2 b3) 2 = b2 := by
  refine BitVec.eq_of_getLsbD_eq fun j hj => ?_
  rw [wordByte_getLsbD _ _ hj, wordOf_getLsbD, if_neg, if_pos]
  · congr 1; simp
  all_goals simp; try omega

@[simp] theorem wordByte_wordOf_three (b0 b1 b2 b3 : Byte) :
    wordByte (wordOf b0 b1 b2 b3) 3 = b3 := by
  refine BitVec.eq_of_getLsbD_eq fun j hj => ?_
  rw [wordByte_getLsbD _ _ hj, wordOf_getLsbD, if_pos]
  · congr 1; simp
  · simpa using hj

@[simp] theorem wordOf_wordByte (w : Word) :
    wordOf (wordByte w 0) (wordByte w 1) (wordByte w 2) (wordByte w 3) = w := by
  refine BitVec.eq_of_getLsbD_eq fun j hj => ?_
  rw [wordOf_getLsbD]
  split_ifs with h1 h2 h3
  · rw [wordByte_getLsbD _ _ h1]; congr 1; simp
  · rw [wordByte_getLsbD _ _ h2]; congr 1; simp; omega
  · rw [wordByte_getLsbD _ _ h3]; congr 1; simp; omega
  · rw [wordByte_getLsbD _ _ (by omega)]; congr 1; simp; omega

theorem wordByte_xor (a b : Word) (k : Fin 4) :
    wordByte (a ^^^ b) k = wordByte a k ^^^ wordByte b k := by
  refine BitVec.eq_of_getLsbD_eq fun j hj => ?_
  simp only [BitVec.getLsbD_xor, wordByte_getLsbD _ _ hj]

theorem word_ext {a b : Word} (h : ∀ k : Fin 4, wordByte a k = wordByte b k) : a = b := by
  rw [← wordOf_wordByte a, ← wordOf_wordByte b, h 0, h 1, h 2, h 3]

/-! Registers and byte sequences (R13, R53). -/

theorem bytesOf_getElem (ws : Quad) (i : Nat) (h : i < 16) :
    (bytesOf ws)[i] = wordByte (ws[i / 4]'(by omega)) ⟨i % 4, Nat.mod_lt _ (by decide)⟩ := by
  simp [bytesOf]

theorem wordsOf_getElem (b : Block) (k : Nat) (h : k < 4) :
    (wordsOf b)[k] =
      wordOf (b[4 * k]'(by omega)) (b[4 * k + 1]'(by omega)) (b[4 * k + 2]'(by omega))
        (b[4 * k + 3]'(by omega)) := by
  simp [wordsOf]

@[simp] theorem wordsOf_bytesOf (ws : Quad) : wordsOf (bytesOf ws) = ws := by
  ext k hk : 1
  have e : (k = 0 ∨ k = 1 ∨ k = 2 ∨ k = 3) := by omega
  rw [wordsOf_getElem _ _ hk]
  rcases e with rfl | rfl | rfl | rfl <;> simp only [bytesOf_getElem] <;> exact wordOf_wordByte _

@[simp] theorem bytesOf_wordsOf (b : Block) : bytesOf (wordsOf b) = b := by
  ext i hi : 1
  rw [bytesOf_getElem _ _ hi, wordsOf_getElem]
  have e : i % 4 = 0 ∨ i % 4 = 1 ∨ i % 4 = 2 ∨ i % 4 = 3 := by omega
  rcases e with e | e | e | e
  · exact (congrArg _ (Fin.ext e)).trans ((wordByte_wordOf_zero _ _ _ _).trans (by congr 1; omega))
  · exact (congrArg _ (Fin.ext e)).trans ((wordByte_wordOf_one _ _ _ _).trans (by congr 1; omega))
  · exact (congrArg _ (Fin.ext e)).trans ((wordByte_wordOf_two _ _ _ _).trans (by congr 1; omega))
  · exact (congrArg _ (Fin.ext e)).trans ((wordByte_wordOf_three _ _ _ _).trans (by congr 1; omega))

theorem keyBytesOf_getElem (ws : KeyWords) (i : Nat) (h : i < 32) :
    (keyBytesOf ws)[i] = wordByte (ws[i / 4]'(by omega)) ⟨i % 4, Nat.mod_lt _ (by decide)⟩ := by
  simp [keyBytesOf]

theorem keyWordsOf_getElem (b : KeyBytes) (k : Nat) (h : k < 8) :
    (keyWordsOf b)[k] =
      wordOf (b[4 * k]'(by omega)) (b[4 * k + 1]'(by omega)) (b[4 * k + 2]'(by omega))
        (b[4 * k + 3]'(by omega)) := by
  simp [keyWordsOf]

@[simp] theorem keyWordsOf_keyBytesOf (ws : KeyWords) : keyWordsOf (keyBytesOf ws) = ws := by
  ext k hk : 1
  rw [keyWordsOf_getElem _ _ hk]
  simp only [keyBytesOf_getElem]
  have e (j : Nat) (hj : j < 4) : (4 * k + j) / 4 = k := by omega
  have m (j : Nat) (hj : j < 4) : (4 * k + j) % 4 = j := by omega
  have e0 : 4 * k / 4 = k := by omega
  have m0 : 4 * k % 4 = 0 := by omega
  simp only [e0, m0, e 1 (by omega), m 1 (by omega), e 2 (by omega), m 2 (by omega),
    e 3 (by omega), m 3 (by omega)]
  exact wordOf_wordByte _

@[simp] theorem keyBytesOf_keyWordsOf (b : KeyBytes) : keyBytesOf (keyWordsOf b) = b := by
  ext i hi : 1
  rw [keyBytesOf_getElem _ _ hi, keyWordsOf_getElem]
  have e : i % 4 = 0 ∨ i % 4 = 1 ∨ i % 4 = 2 ∨ i % 4 = 3 := by omega
  rcases e with e | e | e | e
  · exact (congrArg _ (Fin.ext e)).trans ((wordByte_wordOf_zero _ _ _ _).trans (by congr 1; omega))
  · exact (congrArg _ (Fin.ext e)).trans ((wordByte_wordOf_one _ _ _ _).trans (by congr 1; omega))
  · exact (congrArg _ (Fin.ext e)).trans ((wordByte_wordOf_two _ _ _ _).trans (by congr 1; omega))
  · exact (congrArg _ (Fin.ext e)).trans ((wordByte_wordOf_three _ _ _ _).trans (by congr 1; omega))

theorem bytesOf_zero : bytesOf (Vector.replicate 4 0) = Vector.replicate 16 0 := by decide

/-! Blocks under XOR (R10). -/

@[simp] theorem xorBlock_getElem (a b : Block) (i : Nat) (h : i < 16) :
    (xorBlock a b)[i] = a[i] ^^^ b[i] := by simp [xorBlock]

@[simp] theorem xorBlock_cancel (a b : Block) : xorBlock (xorBlock a b) b = a := by
  ext i hi : 1; simp

/-! The state matrix (R11). -/

@[simp] theorem entry_matrixOf (f : Fin 4 → Fin 4 → Byte) (r c : Fin 4) :
    entry (matrixOf f) r c = f r c := by simp [entry, matrixOf]

theorem matrix_ext {s t : StateMatrix} (h : ∀ r c, entry s r c = entry t r c) : s = t := by
  ext r hr c hc : 2
  exact h ⟨r, hr⟩ ⟨c, hc⟩

@[simp] theorem entry_toState (b : Block) (r c : Fin 4) :
    entry (toState b) r c = b[r.val + 4 * c.val] := by simp [toState]

theorem fromState_getElem (s : StateMatrix) (i : Nat) (h : i < 16) :
    (fromState s)[i] = entry s ⟨i % 4, Nat.mod_lt _ (by decide)⟩ ⟨i / 4, by omega⟩ := by
  simp [fromState]

@[simp] theorem toState_fromState (s : StateMatrix) : toState (fromState s) = s := by
  refine matrix_ext fun r c => ?_
  rw [entry_toState, fromState_getElem]
  congr 1 <;> (ext; simp; try omega)

@[simp] theorem fromState_toState (b : Block) : fromState (toState b) = b := by
  ext i hi : 1
  rw [fromState_getElem _ _ hi, entry_toState]
  congr 1
  simp only; omega

end Sys2Proof.Machine
end

