-- ==== Sys2Proof/Laws/Galois.lean ====
section
/-! SUPPORT. The products of GF(2^8) are linear in the byte (spec/41_datapath.md R123). -/

namespace Sys2Proof.Machine

theorem xtime_xor (a b : Byte) : xtime (a ^^^ b) = xtime a ^^^ xtime b := by
  unfold xtime
  rw [BitVec.shiftLeft_xor_distrib, BitVec.getLsbD_xor]
  generalize a <<< 1 = x, b <<< 1 = y
  cases a.getLsbD 7 <;> cases b.getLsbD 7 <;> simp [BitVec.xor_assoc]
  exact BitVec.xor_comm _ _

theorem xtimes_xor (j : Nat) (a b : Byte) : xtimes j (a ^^^ b) = xtimes j a ^^^ xtimes j b := by
  induction j with
  | zero => rfl
  | succ j ih => simp only [xtimes, ih, xtime_xor]

theorem gmul_xor (a b k : Byte) : gmul (a ^^^ b) k = gmul a k ^^^ gmul b k := by
  have h (l : List Nat) (x y : Byte) :
      l.foldl (fun acc j => if k.getLsbD j then acc ^^^ xtimes j (a ^^^ b) else acc) (x ^^^ y) =
        l.foldl (fun acc j => if k.getLsbD j then acc ^^^ xtimes j a else acc) x ^^^
          l.foldl (fun acc j => if k.getLsbD j then acc ^^^ xtimes j b else acc) y := by
    induction l generalizing x y with
    | nil => rfl
    | cons j l ih =>
      simp only [List.foldl_cons]
      rw [← ih]
      congr 1
      split_ifs
      · rw [xtimes_xor]; ac_rfl
      · rfl
  simpa [gmul] using h (List.range 8) 0 0

/-! Each of the six products as an XOR of powers of `xtime` (R124). -/

theorem mul2_eq (a : Byte) : mul2 a = xtime a := by
  simp [mul2, gmul, List.range, List.range.loop, xtimes]
theorem mul3_eq (a : Byte) : mul3 a = a ^^^ xtime a := by
  simp [mul3, gmul, List.range, List.range.loop, xtimes]
theorem mul9_eq (a : Byte) : mul9 a = a ^^^ xtime (xtime (xtime a)) := by
  simp [mul9, gmul, List.range, List.range.loop, xtimes]
theorem mul11_eq (a : Byte) : mul11 a = a ^^^ xtime a ^^^ xtime (xtime (xtime a)) := by
  simp [mul11, gmul, List.range, List.range.loop, xtimes]
theorem mul13_eq (a : Byte) : mul13 a = a ^^^ xtime (xtime a) ^^^ xtime (xtime (xtime a)) := by
  simp [mul13, gmul, List.range, List.range.loop, xtimes]
theorem mul14_eq (a : Byte) :
    mul14 a = xtime a ^^^ xtime (xtime a) ^^^ xtime (xtime (xtime a)) := by
  simp [mul14, gmul, List.range, List.range.loop, xtimes]

end Sys2Proof.Machine
end

