-- ==== Sys2Proof/Laws/State.lean ====
section
/-! SUPPORT. What each update of the state does to each field: one lemma per field per update, true by
`rfl`, so that no later proof unfolds a record update. -/

namespace Sys2Proof.Machine

/-! The updates of STATUS. -/

@[simp] theorem markKey_active (k : Fin 8) (st : Status) : (markKey k st).active = st.active := rfl
@[simp] theorem markKey_mode (k : Fin 8) (st : Status) : (markKey k st).mode = st.mode := rfl
@[simp] theorem markKey_dv (k : Fin 8) (st : Status) : (markKey k st).dv = st.dv := rfl
@[simp] theorem markKey_last (k : Fin 8) (st : Status) : (markKey k st).last = st.last := rfl
@[simp] theorem markKey_ovr (k : Fin 8) (st : Status) : (markKey k st).ovr = st.ovr := rfl
@[simp] theorem markKey_err (k : Fin 8) (st : Status) : (markKey k st).err = st.err := rfl
@[simp] theorem markKey_ivw (k : Fin 8) (st : Status) : (markKey k st).ivw = st.ivw := rfl
@[simp] theorem markKey_outlen (k : Fin 8) (st : Status) : (markKey k st).outlen = st.outlen := rfl
@[simp] theorem markKey_keyw (k : Fin 8) (st : Status) :
    (markKey k st).keyw = st.keyw ||| (1#8 <<< k.val) := rfl

@[simp] theorem markIv_active (k : Fin 4) (st : Status) : (markIv k st).active = st.active := rfl
@[simp] theorem markIv_mode (k : Fin 4) (st : Status) : (markIv k st).mode = st.mode := rfl
@[simp] theorem markIv_dv (k : Fin 4) (st : Status) : (markIv k st).dv = st.dv := rfl
@[simp] theorem markIv_last (k : Fin 4) (st : Status) : (markIv k st).last = st.last := rfl
@[simp] theorem markIv_ovr (k : Fin 4) (st : Status) : (markIv k st).ovr = st.ovr := rfl
@[simp] theorem markIv_err (k : Fin 4) (st : Status) : (markIv k st).err = st.err := rfl
@[simp] theorem markIv_ivw (k : Fin 4) (st : Status) :
    (markIv k st).ivw = st.ivw ||| (1#4 <<< k.val) := rfl
@[simp] theorem markIv_outlen (k : Fin 4) (st : Status) : (markIv k st).outlen = st.outlen := rfl
@[simp] theorem markIv_keyw (k : Fin 4) (st : Status) : (markIv k st).keyw = st.keyw := rfl

@[simp] theorem statusOutput_active (l : Bool) (n : BitVec 5) (st : Status) :
    (statusOutput l n st).active = st.active := rfl
@[simp] theorem statusOutput_mode (l : Bool) (n : BitVec 5) (st : Status) :
    (statusOutput l n st).mode = st.mode := rfl
@[simp] theorem statusOutput_dv (l : Bool) (n : BitVec 5) (st : Status) :
    (statusOutput l n st).dv = true := rfl
@[simp] theorem statusOutput_last (l : Bool) (n : BitVec 5) (st : Status) :
    (statusOutput l n st).last = l := rfl
@[simp] theorem statusOutput_ovr (l : Bool) (n : BitVec 5) (st : Status) :
    (statusOutput l n st).ovr = st.ovr := rfl
@[simp] theorem statusOutput_err (l : Bool) (n : BitVec 5) (st : Status) :
    (statusOutput l n st).err = .none := rfl
@[simp] theorem statusOutput_ivw (l : Bool) (n : BitVec 5) (st : Status) :
    (statusOutput l n st).ivw = st.ivw := rfl
@[simp] theorem statusOutput_outlen (l : Bool) (n : BitVec 5) (st : Status) :
    (statusOutput l n st).outlen = n := rfl
@[simp] theorem statusOutput_keyw (l : Bool) (n : BitVec 5) (st : Status) :
    (statusOutput l n st).keyw = st.keyw := rfl

@[simp] theorem statusNoOutput_active (st : Status) : (statusNoOutput st).active = st.active := rfl
@[simp] theorem statusNoOutput_mode (st : Status) : (statusNoOutput st).mode = st.mode := rfl
@[simp] theorem statusNoOutput_dv (st : Status) : (statusNoOutput st).dv = false := rfl
@[simp] theorem statusNoOutput_last (st : Status) : (statusNoOutput st).last = false := rfl
@[simp] theorem statusNoOutput_ovr (st : Status) : (statusNoOutput st).ovr = st.ovr := rfl
@[simp] theorem statusNoOutput_err (st : Status) : (statusNoOutput st).err = st.err := rfl
@[simp] theorem statusNoOutput_ivw (st : Status) : (statusNoOutput st).ivw = st.ivw := rfl
@[simp] theorem statusNoOutput_outlen (st : Status) : (statusNoOutput st).outlen = 0 := rfl
@[simp] theorem statusNoOutput_keyw (st : Status) : (statusNoOutput st).keyw = st.keyw := rfl

@[simp] theorem statusOpen_active (m : Mode) (st : Status) : (statusOpen m st).active = true := rfl
@[simp] theorem statusOpen_mode (m : Mode) (st : Status) : (statusOpen m st).mode = m := rfl
@[simp] theorem statusOpen_dv (m : Mode) (st : Status) : (statusOpen m st).dv = false := rfl
@[simp] theorem statusOpen_last (m : Mode) (st : Status) : (statusOpen m st).last = false := rfl
@[simp] theorem statusOpen_ovr (m : Mode) (st : Status) : (statusOpen m st).ovr = st.ovr := rfl
@[simp] theorem statusOpen_err (m : Mode) (st : Status) : (statusOpen m st).err = .none := rfl
@[simp] theorem statusOpen_ivw (m : Mode) (st : Status) : (statusOpen m st).ivw = st.ivw := rfl
@[simp] theorem statusOpen_outlen (m : Mode) (st : Status) : (statusOpen m st).outlen = 0 := rfl
@[simp] theorem statusOpen_keyw (m : Mode) (st : Status) : (statusOpen m st).keyw = st.keyw := rfl

@[simp] theorem statusClosed_active (st : Status) : (statusClosed st).active = false := rfl
@[simp] theorem statusClosed_mode (st : Status) : (statusClosed st).mode = st.mode := rfl
@[simp] theorem statusClosed_dv (st : Status) : (statusClosed st).dv = st.dv := rfl
@[simp] theorem statusClosed_last (st : Status) : (statusClosed st).last = st.last := rfl
@[simp] theorem statusClosed_ovr (st : Status) : (statusClosed st).ovr = st.ovr := rfl
@[simp] theorem statusClosed_err (st : Status) : (statusClosed st).err = st.err := rfl
@[simp] theorem statusClosed_ivw (st : Status) : (statusClosed st).ivw = st.ivw := rfl
@[simp] theorem statusClosed_outlen (st : Status) : (statusClosed st).outlen = st.outlen := rfl
@[simp] theorem statusClosed_keyw (st : Status) : (statusClosed st).keyw = st.keyw := rfl

/-! The updates of the registers. -/

@[simp] theorem clearOutput_key (r : Regs) : (clearOutput r).key = r.key := rfl
@[simp] theorem clearOutput_iv (r : Regs) : (clearOutput r).iv = r.iv := rfl
@[simp] theorem clearOutput_din (r : Regs) : (clearOutput r).din = r.din := rfl
@[simp] theorem clearOutput_dout (r : Regs) : (clearOutput r).dout = Vector.replicate 4 0 := rfl
@[simp] theorem clearOutput_chain (r : Regs) : (clearOutput r).chain = r.chain := rfl
@[simp] theorem clearOutput_blkcnt (r : Regs) : (clearOutput r).blkcnt = r.blkcnt := rfl
@[simp] theorem clearOutput_status (r : Regs) :
    (clearOutput r).status = statusNoOutput r.status := rfl
@[simp] theorem clearOutput_w (r : Regs) : (clearOutput r).w = r.w := rfl
@[simp] theorem clearOutput_pending (r : Regs) : (clearOutput r).pending = r.pending := rfl

@[simp] theorem endSessionClear_key (r : Regs) : (endSessionClear r).key = r.key := rfl
@[simp] theorem endSessionClear_iv (r : Regs) : (endSessionClear r).iv = r.iv := rfl
@[simp] theorem endSessionClear_din (r : Regs) : (endSessionClear r).din = r.din := rfl
@[simp] theorem endSessionClear_dout (r : Regs) :
    (endSessionClear r).dout = Vector.replicate 4 0 := rfl
@[simp] theorem endSessionClear_chain (r : Regs) :
    (endSessionClear r).chain = Vector.replicate 4 0 := rfl
@[simp] theorem endSessionClear_blkcnt (r : Regs) : (endSessionClear r).blkcnt = r.blkcnt := rfl
@[simp] theorem endSessionClear_status (r : Regs) :
    (endSessionClear r).status = statusClosed (statusNoOutput r.status) := rfl
@[simp] theorem endSessionClear_w (r : Regs) : (endSessionClear r).w = Vector.replicate 60 0 := rfl
@[simp] theorem endSessionClear_pending (r : Regs) : (endSessionClear r).pending = r.pending := rfl

@[simp] theorem endSessionDone_key (r : Regs) : (endSessionDone r).key = r.key := rfl
@[simp] theorem endSessionDone_iv (r : Regs) : (endSessionDone r).iv = r.iv := rfl
@[simp] theorem endSessionDone_din (r : Regs) : (endSessionDone r).din = r.din := rfl
@[simp] theorem endSessionDone_dout (r : Regs) : (endSessionDone r).dout = r.dout := rfl
@[simp] theorem endSessionDone_chain (r : Regs) : (endSessionDone r).chain = r.chain := rfl
@[simp] theorem endSessionDone_blkcnt (r : Regs) : (endSessionDone r).blkcnt = r.blkcnt := rfl
@[simp] theorem endSessionDone_status (r : Regs) :
    (endSessionDone r).status = statusClosed r.status := rfl
@[simp] theorem endSessionDone_w (r : Regs) : (endSessionDone r).w = Vector.replicate 60 0 := rfl
@[simp] theorem endSessionDone_pending (r : Regs) : (endSessionDone r).pending = r.pending := rfl

@[simp] theorem setErr_key (e : ErrCode) (r : Regs) : (setErr e r).key = r.key := rfl
@[simp] theorem setErr_iv (e : ErrCode) (r : Regs) : (setErr e r).iv = r.iv := rfl
@[simp] theorem setErr_din (e : ErrCode) (r : Regs) : (setErr e r).din = r.din := rfl
@[simp] theorem setErr_dout (e : ErrCode) (r : Regs) : (setErr e r).dout = r.dout := rfl
@[simp] theorem setErr_chain (e : ErrCode) (r : Regs) : (setErr e r).chain = r.chain := rfl
@[simp] theorem setErr_blkcnt (e : ErrCode) (r : Regs) : (setErr e r).blkcnt = r.blkcnt := rfl
@[simp] theorem setErr_w (e : ErrCode) (r : Regs) : (setErr e r).w = r.w := rfl
@[simp] theorem setErr_pending (e : ErrCode) (r : Regs) : (setErr e r).pending = r.pending := rfl

@[simp] theorem setErr_status_active (e : ErrCode) (r : Regs) :
    (setErr e r).status.active = r.status.active := rfl
@[simp] theorem setErr_status_mode (e : ErrCode) (r : Regs) :
    (setErr e r).status.mode = r.status.mode := rfl
@[simp] theorem setErr_status_dv (e : ErrCode) (r : Regs) :
    (setErr e r).status.dv = r.status.dv := rfl
@[simp] theorem setErr_status_last (e : ErrCode) (r : Regs) :
    (setErr e r).status.last = r.status.last := rfl
@[simp] theorem setErr_status_ovr (e : ErrCode) (r : Regs) :
    (setErr e r).status.ovr = r.status.ovr := rfl
@[simp] theorem setErr_status_err (e : ErrCode) (r : Regs) : (setErr e r).status.err = e := rfl
@[simp] theorem setErr_status_ivw (e : ErrCode) (r : Regs) :
    (setErr e r).status.ivw = r.status.ivw := rfl
@[simp] theorem setErr_status_outlen (e : ErrCode) (r : Regs) :
    (setErr e r).status.outlen = r.status.outlen := rfl
@[simp] theorem setErr_status_keyw (e : ErrCode) (r : Regs) :
    (setErr e r).status.keyw = r.status.keyw := rfl

@[simp] theorem openSession_key (m : Mode) (r : Regs) : (openSession m r).key = r.key := rfl
@[simp] theorem openSession_iv (m : Mode) (r : Regs) : (openSession m r).iv = r.iv := rfl
@[simp] theorem openSession_din (m : Mode) (r : Regs) : (openSession m r).din = r.din := rfl
@[simp] theorem openSession_dout (m : Mode) (r : Regs) :
    (openSession m r).dout = Vector.replicate 4 0 := rfl
@[simp] theorem openSession_chain (m : Mode) (r : Regs) : (openSession m r).chain = r.iv := rfl
@[simp] theorem openSession_blkcnt (m : Mode) (r : Regs) : (openSession m r).blkcnt = 0 := rfl
@[simp] theorem openSession_status (m : Mode) (r : Regs) :
    (openSession m r).status = statusOpen m r.status := rfl
@[simp] theorem openSession_w (m : Mode) (r : Regs) :
    (openSession m r).w = expand (keyBytesOf r.key) := rfl
@[simp] theorem openSession_pending (m : Mode) (r : Regs) :
    (openSession m r).pending = r.pending := rfl

@[simp] theorem putOutput_key (y : Block) (ch : Quad) (l : Bool) (n : BitVec 5) (r : Regs) :
    (putOutput y ch l n r).key = r.key := rfl
@[simp] theorem putOutput_iv (y : Block) (ch : Quad) (l : Bool) (n : BitVec 5) (r : Regs) :
    (putOutput y ch l n r).iv = r.iv := rfl
@[simp] theorem putOutput_din (y : Block) (ch : Quad) (l : Bool) (n : BitVec 5) (r : Regs) :
    (putOutput y ch l n r).din = r.din := rfl
@[simp] theorem putOutput_dout (y : Block) (ch : Quad) (l : Bool) (n : BitVec 5) (r : Regs) :
    (putOutput y ch l n r).dout = wordsOf y := rfl
@[simp] theorem putOutput_chain (y : Block) (ch : Quad) (l : Bool) (n : BitVec 5) (r : Regs) :
    (putOutput y ch l n r).chain = ch := rfl
@[simp] theorem putOutput_blkcnt (y : Block) (ch : Quad) (l : Bool) (n : BitVec 5) (r : Regs) :
    (putOutput y ch l n r).blkcnt = r.blkcnt + 1 := rfl
@[simp] theorem putOutput_status (y : Block) (ch : Quad) (l : Bool) (n : BitVec 5) (r : Regs) :
    (putOutput y ch l n r).status = statusOutput l n r.status := rfl
@[simp] theorem putOutput_w (y : Block) (ch : Quad) (l : Bool) (n : BitVec 5) (r : Regs) :
    (putOutput y ch l n r).w = r.w := rfl
@[simp] theorem putOutput_pending (y : Block) (ch : Quad) (l : Bool) (n : BitVec 5) (r : Regs) :
    (putOutput y ch l n r).pending = r.pending := rfl

@[simp] theorem abortRegs_key (r : Regs) : (abortRegs r).key = r.key := rfl
@[simp] theorem abortRegs_iv (r : Regs) : (abortRegs r).iv = r.iv := rfl
@[simp] theorem abortRegs_din (r : Regs) : (abortRegs r).din = r.din := rfl
@[simp] theorem abortRegs_dout (r : Regs) : (abortRegs r).dout = Vector.replicate 4 0 := rfl
@[simp] theorem abortRegs_chain (r : Regs) : (abortRegs r).chain = Vector.replicate 4 0 := rfl
@[simp] theorem abortRegs_blkcnt (r : Regs) : (abortRegs r).blkcnt = 0 := rfl
@[simp] theorem abortRegs_status (r : Regs) :
    (abortRegs r).status = (setErr .none (endSessionClear r)).status := rfl
@[simp] theorem abortRegs_w (r : Regs) : (abortRegs r).w = Vector.replicate 60 0 := rfl
@[simp] theorem abortRegs_pending (r : Regs) : (abortRegs r).pending = r.pending := rfl

@[simp] theorem clearRegs_key (r : Regs) : (clearRegs r).key = Vector.replicate 8 0 := rfl
@[simp] theorem clearRegs_iv (r : Regs) : (clearRegs r).iv = Vector.replicate 4 0 := rfl
@[simp] theorem clearRegs_din (r : Regs) : (clearRegs r).din = Vector.replicate 4 0 := rfl
@[simp] theorem clearRegs_dout (r : Regs) : (clearRegs r).dout = Vector.replicate 4 0 := rfl
@[simp] theorem clearRegs_chain (r : Regs) : (clearRegs r).chain = Vector.replicate 4 0 := rfl
@[simp] theorem clearRegs_blkcnt (r : Regs) : (clearRegs r).blkcnt = 0 := rfl
@[simp] theorem clearRegs_status (r : Regs) : (clearRegs r).status = Status.reset := rfl
@[simp] theorem clearRegs_w (r : Regs) : (clearRegs r).w = Vector.replicate 60 0 := rfl
@[simp] theorem clearRegs_pending (r : Regs) : (clearRegs r).pending = r.pending := rfl

@[simp] theorem dropWrite_key (r : Regs) : (dropWrite r).key = r.key := rfl
@[simp] theorem dropWrite_iv (r : Regs) : (dropWrite r).iv = r.iv := rfl
@[simp] theorem dropWrite_din (r : Regs) : (dropWrite r).din = r.din := rfl
@[simp] theorem dropWrite_dout (r : Regs) : (dropWrite r).dout = r.dout := rfl
@[simp] theorem dropWrite_chain (r : Regs) : (dropWrite r).chain = r.chain := rfl
@[simp] theorem dropWrite_blkcnt (r : Regs) : (dropWrite r).blkcnt = r.blkcnt := rfl
@[simp] theorem dropWrite_w (r : Regs) : (dropWrite r).w = r.w := rfl
@[simp] theorem dropWrite_pending (r : Regs) : (dropWrite r).pending = r.pending := rfl

@[simp] theorem dropWrite_status_active (r : Regs) :
    (dropWrite r).status.active = r.status.active := rfl
@[simp] theorem dropWrite_status_mode (r : Regs) : (dropWrite r).status.mode = r.status.mode := rfl
@[simp] theorem dropWrite_status_dv (r : Regs) : (dropWrite r).status.dv = r.status.dv := rfl
@[simp] theorem dropWrite_status_last (r : Regs) : (dropWrite r).status.last = r.status.last := rfl
@[simp] theorem dropWrite_status_ovr (r : Regs) : (dropWrite r).status.ovr = true := rfl
@[simp] theorem dropWrite_status_err (r : Regs) : (dropWrite r).status.err = r.status.err := rfl
@[simp] theorem dropWrite_status_ivw (r : Regs) : (dropWrite r).status.ivw = r.status.ivw := rfl
@[simp] theorem dropWrite_status_outlen (r : Regs) :
    (dropWrite r).status.outlen = r.status.outlen := rfl
@[simp] theorem dropWrite_status_keyw (r : Regs) : (dropWrite r).status.keyw = r.status.keyw := rfl

/-! The updates of the machine. -/

@[simp] theorem onRegs_regs (f : Regs → Regs) (s : State) : (onRegs f s).regs = f s.regs := rfl
@[simp] theorem onRegs_work (f : Regs → Regs) (s : State) : (onRegs f s).work = s.work := rfl
@[simp] theorem onRegs_round (f : Regs → Regs) (s : State) : (onRegs f s).round = s.round := rfl
@[simp] theorem onRegs_inputs (f : Regs → Regs) (s : State) : (onRegs f s).inputs = s.inputs := rfl
@[simp] theorem onRegs_lag (f : Regs → Regs) (s : State) : (onRegs f s).lag = s.lag := rfl
@[simp] theorem onRegs_reads (f : Regs → Regs) (s : State) : (onRegs f s).reads = s.reads := rfl
@[simp] theorem onRegs_draws (f : Regs → Regs) (s : State) : (onRegs f s).draws = s.draws := rfl

@[simp] theorem onRegsDrawing_regs (f : Regs → Regs) (s : State) :
    (onRegsDrawing f s).regs = f s.regs := rfl
@[simp] theorem onRegsDrawing_work (f : Regs → Regs) (s : State) :
    (onRegsDrawing f s).work = Config.leftWork s.draws s.regs := rfl
@[simp] theorem onRegsDrawing_round (f : Regs → Regs) (s : State) :
    (onRegsDrawing f s).round = Config.leftRound s.draws s.regs := rfl
@[simp] theorem onRegsDrawing_inputs (f : Regs → Regs) (s : State) :
    (onRegsDrawing f s).inputs = s.inputs := rfl
@[simp] theorem onRegsDrawing_lag (f : Regs → Regs) (s : State) :
    (onRegsDrawing f s).lag = s.lag := rfl
@[simp] theorem onRegsDrawing_reads (f : Regs → Regs) (s : State) :
    (onRegsDrawing f s).reads = s.reads := rfl
@[simp] theorem onRegsDrawing_draws (f : Regs → Regs) (s : State) :
    (onRegsDrawing f s).draws = s.draws + 1 := rfl

@[simp] theorem complete_work (s : State) : (complete s).work = s.work := rfl
@[simp] theorem complete_round (s : State) : (complete s).round = s.round := rfl
@[simp] theorem complete_inputs (s : State) : (complete s).inputs = s.inputs := rfl
@[simp] theorem complete_lag (s : State) : (complete s).lag = 0 := rfl
@[simp] theorem complete_reads (s : State) : (complete s).reads = s.reads := rfl
@[simp] theorem complete_draws (s : State) : (complete s).draws = s.draws := rfl

@[simp] theorem complete_regs_key (s : State) : (complete s).regs.key = s.regs.key := rfl
@[simp] theorem complete_regs_iv (s : State) : (complete s).regs.iv = s.regs.iv := rfl
@[simp] theorem complete_regs_din (s : State) : (complete s).regs.din = s.regs.din := rfl
@[simp] theorem complete_regs_dout (s : State) : (complete s).regs.dout = s.regs.dout := rfl
@[simp] theorem complete_regs_chain (s : State) : (complete s).regs.chain = s.regs.chain := rfl
@[simp] theorem complete_regs_blkcnt (s : State) : (complete s).regs.blkcnt = s.regs.blkcnt := rfl
@[simp] theorem complete_regs_status (s : State) : (complete s).regs.status = s.regs.status := rfl
@[simp] theorem complete_regs_w (s : State) : (complete s).regs.w = s.regs.w := rfl
@[simp] theorem complete_regs_pending (s : State) : (complete s).regs.pending = none := rfl

@[simp] theorem takeEvent_regs (rest : List HostEvent) (s : State) :
    (takeEvent rest s).regs = s.regs := rfl
@[simp] theorem takeEvent_work (rest : List HostEvent) (s : State) :
    (takeEvent rest s).work = s.work := rfl
@[simp] theorem takeEvent_round (rest : List HostEvent) (s : State) :
    (takeEvent rest s).round = s.round := rfl
@[simp] theorem takeEvent_inputs (rest : List HostEvent) (s : State) :
    (takeEvent rest s).inputs = rest := rfl
@[simp] theorem takeEvent_lag (rest : List HostEvent) (s : State) :
    (takeEvent rest s).lag = s.lag - 1 := rfl
@[simp] theorem takeEvent_reads (rest : List HostEvent) (s : State) :
    (takeEvent rest s).reads = s.reads := rfl
@[simp] theorem takeEvent_draws (rest : List HostEvent) (s : State) :
    (takeEvent rest s).draws = s.draws := rfl

@[simp] theorem issueCommand_work (v : Word) (s : State) : (issueCommand v s).work = s.work := rfl
@[simp] theorem issueCommand_round (v : Word) (s : State) :
    (issueCommand v s).round = s.round := rfl
@[simp] theorem issueCommand_inputs (v : Word) (s : State) :
    (issueCommand v s).inputs = s.inputs := rfl
@[simp] theorem issueCommand_lag (v : Word) (s : State) :
    (issueCommand v s).lag = Config.latency s.draws v s.regs := rfl
@[simp] theorem issueCommand_reads (v : Word) (s : State) :
    (issueCommand v s).reads = s.reads := rfl
@[simp] theorem issueCommand_draws (v : Word) (s : State) :
    (issueCommand v s).draws = s.draws + 1 := rfl

@[simp] theorem issueCommand_regs_key (v : Word) (s : State) :
    (issueCommand v s).regs.key = s.regs.key := rfl
@[simp] theorem issueCommand_regs_iv (v : Word) (s : State) :
    (issueCommand v s).regs.iv = s.regs.iv := rfl
@[simp] theorem issueCommand_regs_din (v : Word) (s : State) :
    (issueCommand v s).regs.din = s.regs.din := rfl
@[simp] theorem issueCommand_regs_dout (v : Word) (s : State) :
    (issueCommand v s).regs.dout = s.regs.dout := rfl
@[simp] theorem issueCommand_regs_chain (v : Word) (s : State) :
    (issueCommand v s).regs.chain = s.regs.chain := rfl
@[simp] theorem issueCommand_regs_blkcnt (v : Word) (s : State) :
    (issueCommand v s).regs.blkcnt = s.regs.blkcnt := rfl
@[simp] theorem issueCommand_regs_status (v : Word) (s : State) :
    (issueCommand v s).regs.status = s.regs.status := rfl
@[simp] theorem issueCommand_regs_w (v : Word) (s : State) :
    (issueCommand v s).regs.w = s.regs.w := rfl
@[simp] theorem issueCommand_regs_pending (v : Word) (s : State) :
    (issueCommand v s).regs.pending = some v := rfl

@[simp] theorem busRead_regs (off : Nat) (s : State) : (busRead off s).regs = s.regs := rfl
@[simp] theorem busRead_work (off : Nat) (s : State) : (busRead off s).work = s.work := rfl
@[simp] theorem busRead_round (off : Nat) (s : State) : (busRead off s).round = s.round := rfl
@[simp] theorem busRead_inputs (off : Nat) (s : State) : (busRead off s).inputs = s.inputs := rfl
@[simp] theorem busRead_lag (off : Nat) (s : State) : (busRead off s).lag = s.lag := rfl
@[simp] theorem busRead_reads (off : Nat) (s : State) :
    (busRead off s).reads = ⟨off, readValue s off⟩ :: s.reads := rfl
@[simp] theorem busRead_draws (off : Nat) (s : State) :
    (busRead off s).draws = if busy s.regs then s.draws + 1 else s.draws := rfl

@[simp] theorem resetCore_regs (s : State) : (resetCore s).regs = Regs.reset := rfl
@[simp] theorem resetCore_work (s : State) :
    (resetCore s).work = Config.leftWork s.draws s.regs := rfl
@[simp] theorem resetCore_round (s : State) :
    (resetCore s).round = Config.leftRound s.draws s.regs := rfl
@[simp] theorem resetCore_inputs (s : State) : (resetCore s).inputs = s.inputs := rfl
@[simp] theorem resetCore_lag (s : State) : (resetCore s).lag = 0 := rfl
@[simp] theorem resetCore_reads (s : State) : (resetCore s).reads = s.reads := rfl
@[simp] theorem resetCore_draws (s : State) : (resetCore s).draws = s.draws + 1 := rfl

@[simp] theorem withFetchWord_work (nbits n : Nat) (s : State) :
    (s.withFetchWord nbits n).work = s.work := rfl
@[simp] theorem withFetchWord_round (nbits n : Nat) (s : State) :
    (s.withFetchWord nbits n).round = s.round := rfl
@[simp] theorem withFetchWord_inputs (nbits n : Nat) (s : State) :
    (s.withFetchWord nbits n).inputs = s.inputs := rfl
@[simp] theorem withFetchWord_lag (nbits n : Nat) (s : State) :
    (s.withFetchWord nbits n).lag = 0 := rfl
@[simp] theorem withFetchWord_reads (nbits n : Nat) (s : State) :
    (s.withFetchWord nbits n).reads = s.reads := rfl
@[simp] theorem withFetchWord_draws (nbits n : Nat) (s : State) :
    (s.withFetchWord nbits n).draws = s.draws := rfl

@[simp] theorem withFetchWord_regs_key (nbits n : Nat) (s : State) :
    (s.withFetchWord nbits n).regs.key = s.regs.key := rfl
@[simp] theorem withFetchWord_regs_iv (nbits n : Nat) (s : State) :
    (s.withFetchWord nbits n).regs.iv = s.regs.iv := rfl
@[simp] theorem withFetchWord_regs_din (nbits n : Nat) (s : State) :
    (s.withFetchWord nbits n).regs.din = s.regs.din := rfl
@[simp] theorem withFetchWord_regs_dout (nbits n : Nat) (s : State) :
    (s.withFetchWord nbits n).regs.dout = s.regs.dout := rfl
@[simp] theorem withFetchWord_regs_chain (nbits n : Nat) (s : State) :
    (s.withFetchWord nbits n).regs.chain = s.regs.chain := rfl
@[simp] theorem withFetchWord_regs_blkcnt (nbits n : Nat) (s : State) :
    (s.withFetchWord nbits n).regs.blkcnt = s.regs.blkcnt := rfl
@[simp] theorem withFetchWord_regs_status (nbits n : Nat) (s : State) :
    (s.withFetchWord nbits n).regs.status = s.regs.status := rfl
@[simp] theorem withFetchWord_regs_w (nbits n : Nat) (s : State) :
    (s.withFetchWord nbits n).regs.w = s.regs.w := rfl
@[simp] theorem withFetchWord_regs_pending (nbits n : Nat) (s : State) :
    (s.withFetchWord nbits n).regs.pending = some (BitVec.ofNat 32 (n % 2 ^ nbits)) := rfl

/-! Reset. -/

@[simp] theorem reset_status : Regs.reset.status = Status.reset := rfl
@[simp] theorem reset_pending : Regs.reset.pending = none := rfl
@[simp] theorem reset_w : Regs.reset.w = Vector.replicate 60 0 := rfl
@[simp] theorem reset_dout : Regs.reset.dout = Vector.replicate 4 0 := rfl
@[simp] theorem reset_chain : Regs.reset.chain = Vector.replicate 4 0 := rfl
@[simp] theorem reset_blkcnt : Regs.reset.blkcnt = 0 := rfl

/-! BUSY. -/

@[simp] theorem busy_of_some {r : Regs} {v : Word} (h : r.pending = some v) : busy r = true := by
  simp [busy, h]
@[simp] theorem busy_of_none {r : Regs} (h : r.pending = none) : busy r = false := by simp [busy, h]

end Sys2Proof.Machine
end

