-- ==== Sys2Proof/Laws/Ops.lean ====
section
/-! SUPPORT. Everything each shared operation can do, said once: error entry, the opening of a
session, the data commands, the host's step, the engine's step, the step. -/

namespace Sys2Proof.Machine

/-! Error entry (R220, R232). -/

theorem raiseError_keeps {e : ErrCode} (h : endsSession e = false) (r : Regs) :
    raiseError e r = setErr e r := by simp [raiseError, h]

theorem raiseError_ends {e : ErrCode} (h : endsSession e = true) (r : Regs) :
    raiseError e r = setErr e (endSessionClear r) := by simp [raiseError, h]

@[simp] theorem raiseError_key (e : ErrCode) (r : Regs) : (raiseError e r).key = r.key := by
  cases e <;> rfl
@[simp] theorem raiseError_iv (e : ErrCode) (r : Regs) : (raiseError e r).iv = r.iv := by
  cases e <;> rfl
@[simp] theorem raiseError_din (e : ErrCode) (r : Regs) : (raiseError e r).din = r.din := by
  cases e <;> rfl
@[simp] theorem raiseError_blkcnt (e : ErrCode) (r : Regs) :
    (raiseError e r).blkcnt = r.blkcnt := by cases e <;> rfl
@[simp] theorem raiseError_pending (e : ErrCode) (r : Regs) :
    (raiseError e r).pending = r.pending := by cases e <;> rfl
@[simp] theorem raiseError_err (e : ErrCode) (r : Regs) : (raiseError e r).status.err = e := by
  cases e <;> rfl
@[simp] theorem raiseError_mode (e : ErrCode) (r : Regs) :
    (raiseError e r).status.mode = r.status.mode := by cases e <;> rfl
@[simp] theorem raiseError_ovr (e : ErrCode) (r : Regs) :
    (raiseError e r).status.ovr = r.status.ovr := by cases e <;> rfl
@[simp] theorem raiseError_ivw (e : ErrCode) (r : Regs) :
    (raiseError e r).status.ivw = r.status.ivw := by cases e <;> rfl
@[simp] theorem raiseError_keyw (e : ErrCode) (r : Regs) :
    (raiseError e r).status.keyw = r.status.keyw := by cases e <;> rfl

/-! The opening of a session (R181, R182): one of four outcomes. -/

theorem beginSession_cases (m : Mode) (r : Regs) :
    (r.status.active = true ∧ beginSession m r = setErr .seq r) ∨
    (r.status.active = false ∧ r.status.keyw ≠ 0xFF ∧ beginSession m r = setErr .keyLen r) ∨
    (r.status.active = false ∧ r.status.keyw = 0xFF ∧ r.status.ivw ≠ 0xF ∧
      beginSession m r = setErr .ivLen r) ∨
    (r.status.active = false ∧ r.status.keyw = 0xFF ∧ r.status.ivw = 0xF ∧
      beginSession m r = openSession m r) := by
  unfold beginSession
  by_cases ha : r.status.active = true
  · exact .inl ⟨ha, by rw [if_pos ha]; rfl⟩
  rw [if_neg ha]
  simp only [Bool.not_eq_true] at ha
  by_cases hk : r.status.keyw = 0xFF
  · by_cases hi : r.status.ivw = 0xF
    · exact .inr (.inr (.inr ⟨ha, hk, hi, by simp [hk, hi]⟩))
    · exact .inr (.inr (.inl ⟨ha, hk, hi, by rw [if_neg (by simp [hk]), if_pos hi]; rfl⟩))
  · exact .inr (.inl ⟨ha, hk, by rw [if_pos hk]; rfl⟩)

/-! The data commands (R185, R186). -/

theorem blockRegs_enc {r : Regs} (h : r.status.mode = .enc) :
    blockRegs r =
      putOutput (cbcEncStep r.w (bytesOf r.din) (bytesOf r.chain))
        (wordsOf (cbcEncStep r.w (bytesOf r.din) (bytesOf r.chain))) false 16 r := by
  simp [blockRegs, h]

theorem blockRegs_dec {r : Regs} (h : r.status.mode = .dec) :
    blockRegs r =
      putOutput (cbcDecStep r.w (bytesOf r.din) (bytesOf r.chain)) r.din false 16 r := by
  simp [blockRegs, h]

theorem finalDecRegs_cases (r : Regs) :
    (unpadCheck (cbcDecStep r.w (bytesOf r.din) (bytesOf r.chain)) = none ∧
      finalDecRegs r = setErr .pad (endSessionClear r)) ∨
    (∃ k, unpadCheck (cbcDecStep r.w (bytesOf r.din) (bytesOf r.chain)) = some k ∧
      finalDecRegs r = endSessionDone (putOutput
        (stripPad (cbcDecStep r.w (bytesOf r.din) (bytesOf r.chain)) k) r.din true
          (BitVec.ofNat 5 k) r)) := by
  unfold finalDecRegs
  cases h : unpadCheck (cbcDecStep r.w (bytesOf r.din) (bytesOf r.chain)) with
  | none => exact .inl ⟨rfl, by simp [h, raiseError, endsSession]⟩
  | some k => exact .inr ⟨k, rfl, by simp [h]⟩

theorem unpadCheck_le {q : Block} {k : Nat} (h : unpadCheck q = some k) : k ≤ 15 := by
  unfold unpadCheck at h
  split_ifs at h with hq
  simp only [Option.some.injEq] at h
  omega

theorem execBlock_cases {s t : State} (h : execBlock s = .next t) :
    (s.regs.status.active = false ∧ t = onRegs (setErr .seq) s) ∨
    (s.regs.status.active = true ∧ t = onRegsDrawing blockRegs s) := by
  unfold execBlock at h
  split_ifs at h with ha <;> cases h
  · exact .inr ⟨ha, rfl⟩
  · exact .inl ⟨by simpa using ha, rfl⟩

theorem execFinal_cases {n : Nat} {s t : State} (h : execFinal n s = .next t) :
    (s.regs.status.active = false ∧ t = onRegs (setErr .seq) s) ∨
    (s.regs.status.active = true ∧ s.regs.status.mode = .enc ∧
      t = onRegsDrawing (finalEncRegs n) s) ∨
    (s.regs.status.active = true ∧ s.regs.status.mode = .dec ∧ n ≠ 0 ∧
      t = onRegs (fun r => setErr .blockLen (endSessionClear r)) s) ∨
    (s.regs.status.active = true ∧ s.regs.status.mode = .dec ∧ n = 0 ∧
      t = onRegsDrawing finalDecRegs s) := by
  by_cases ha : s.regs.status.active = true
  · cases hm : s.regs.status.mode
    · have e : execFinal n s = .next (onRegsDrawing (finalEncRegs n) s) := by
        simp [execFinal, ha, hm]
      exact .inr (.inl ⟨ha, rfl, Host.Outcome.next.inj (h.symm.trans e)⟩)
    · by_cases hn : n = 0
      · have e : execFinal n s = .next (onRegsDrawing finalDecRegs s) := by
          simp [execFinal, ha, hm, hn]
        exact .inr (.inr (.inr ⟨ha, rfl, hn, Host.Outcome.next.inj (h.symm.trans e)⟩))
      · have e : execFinal n s =
            .next (onRegs (fun r => setErr .blockLen (endSessionClear r)) s) := by
          simp only [execFinal, ha, hm, hn, if_true, ne_eq, not_false_eq_true]; rfl
        exact .inr (.inr (.inl ⟨ha, rfl, hn, Host.Outcome.next.inj (h.symm.trans e)⟩))
  · have e : execFinal n s = .next (onRegs (setErr .seq) s) := by
      simp only [execFinal, ha]; rfl
    exact .inl ⟨by simpa using ha, Host.Outcome.next.inj (h.symm.trans e)⟩

/-- The command and the mode of its session: BEGIN_ENC opens one in mode enc, BEGIN_DEC in mode dec. -/
inductive Begins : Instr → Mode → Prop where
  | enc : Begins .beginEnc .enc
  | dec : Begins .beginDec .dec

/-- The commands that need an open session (R226). -/
inductive NeedsSession : Instr → Prop where
  | block : NeedsSession .block
  | final (n : Nat) : NeedsSession (.final n)

/-- Everything a command can do: the command, what held before, the state after. -/
inductive CommandOutcome (s : State) : Instr → State → Prop where
  | nop : CommandOutcome s .nop (onRegs (setErr .none) s)
  | beginSeq {i m} : Begins i m → s.regs.status.active = true →
      CommandOutcome s i (onRegs (setErr .seq) s)
  | beginKeyLen {i m} : Begins i m → s.regs.status.active = false →
      s.regs.status.keyw ≠ 0xFF → CommandOutcome s i (onRegs (setErr .keyLen) s)
  | beginIvLen {i m} : Begins i m → s.regs.status.active = false → s.regs.status.keyw = 0xFF →
      s.regs.status.ivw ≠ 0xF → CommandOutcome s i (onRegs (setErr .ivLen) s)
  | opened {i m} : Begins i m → s.regs.status.active = false → s.regs.status.keyw = 0xFF →
      s.regs.status.ivw = 0xF → CommandOutcome s i (onRegs (openSession m) s)
  | noSession {i} : NeedsSession i → s.regs.status.active = false →
      CommandOutcome s i (onRegs (setErr .seq) s)
  | block : s.regs.status.active = true → CommandOutcome s .block (onRegsDrawing blockRegs s)
  | finalEnc {n} : s.regs.status.active = true → s.regs.status.mode = .enc →
      CommandOutcome s (.final n) (onRegsDrawing (finalEncRegs n) s)
  | finalBlockLen {n} : s.regs.status.active = true → s.regs.status.mode = .dec → n ≠ 0 →
      CommandOutcome s (.final n) (onRegs (fun r => setErr .blockLen (endSessionClear r)) s)
  | finalDec : s.regs.status.active = true → s.regs.status.mode = .dec →
      CommandOutcome s (.final 0) (onRegsDrawing finalDecRegs s)
  | abort : CommandOutcome s .abort (onRegs abortRegs s)
  | clear : CommandOutcome s .clear (onRegsDrawing clearRegs s)

theorem begin_outcome {i : Instr} {m : Mode} (hi : Begins i m) (s : State) :
    CommandOutcome s i (onRegs (beginSession m) s) := by
  have lift {f : Regs → Regs} (e : beginSession m s.regs = f s.regs) :
      onRegs (beginSession m) s = onRegs f s :=
    congrArg (fun r => ({ s with regs := r } : State)) e
  rcases beginSession_cases m s.regs with ⟨a, e⟩ | ⟨a, b, e⟩ | ⟨a, b, c, e⟩ | ⟨a, b, c, e⟩
  · rw [lift e]; exact .beginSeq hi a
  · rw [lift e]; exact .beginKeyLen hi a b
  · rw [lift e]; exact .beginIvLen hi a b c
  · rw [lift e]; exact .opened hi a b c

/-- What a command that answers a next state did, said once for all commands. -/
theorem exec_outcome {i : Instr} {s t : State} (h : exec i s = .next t) :
    CommandOutcome s i t := by
  cases i with
  | nop => rw [← Host.Outcome.next.inj h]; exact .nop
  | beginEnc => rw [← Host.Outcome.next.inj h]; exact begin_outcome .enc s
  | beginDec => rw [← Host.Outcome.next.inj h]; exact begin_outcome .dec s
  | block =>
    rcases execBlock_cases h with ⟨a, rfl⟩ | ⟨a, rfl⟩
    · exact .noSession .block a
    · exact .block a
  | final n =>
    rcases execFinal_cases h with ⟨a, rfl⟩ | ⟨a, b, rfl⟩ | ⟨a, b, c, rfl⟩ | ⟨a, b, rfl, rfl⟩
    · exact .noSession (.final n) a
    · exact .finalEnc a b
    · exact .finalBlockLen a b c
    · exact .finalDec a b
  | abort => rw [← Host.Outcome.next.inj h]; exact .abort
  | clear => rw [← Host.Outcome.next.inj h]; exact .clear

/-- Everything a command can do to the registers: the command, what held before, the registers after. -/
inductive RegsOutcome (r : Regs) : Instr → Regs → Prop where
  | nop : RegsOutcome r .nop (setErr .none r)
  | beginSeq {i m} : Begins i m → r.status.active = true → RegsOutcome r i (setErr .seq r)
  | beginKeyLen {i m} : Begins i m → r.status.active = false → r.status.keyw ≠ 0xFF →
      RegsOutcome r i (setErr .keyLen r)
  | beginIvLen {i m} : Begins i m → r.status.active = false → r.status.keyw = 0xFF →
      r.status.ivw ≠ 0xF → RegsOutcome r i (setErr .ivLen r)
  | opened {i m} : Begins i m → r.status.active = false → r.status.keyw = 0xFF →
      r.status.ivw = 0xF → RegsOutcome r i (openSession m r)
  | noSession {i} : NeedsSession i → r.status.active = false → RegsOutcome r i (setErr .seq r)
  | blockEnc (y : Block) : r.status.active = true → r.status.mode = .enc →
      y = cbcEncStep r.w (bytesOf r.din) (bytesOf r.chain) →
      RegsOutcome r .block (putOutput y (wordsOf y) false 16 r)
  | blockDec : r.status.active = true → r.status.mode = .dec →
      RegsOutcome r .block
        (putOutput (cbcDecStep r.w (bytesOf r.din) (bytesOf r.chain)) r.din false 16 r)
  | finalEnc {n} (y : Block) : r.status.active = true → r.status.mode = .enc →
      y = cbcEncStep r.w (padFinal (bytesOf r.din) n) (bytesOf r.chain) →
      RegsOutcome r (.final n) (endSessionDone (putOutput y (wordsOf y) true 16 r))
  | finalBlockLen {n} : r.status.active = true → r.status.mode = .dec → n ≠ 0 →
      RegsOutcome r (.final n) (setErr .blockLen (endSessionClear r))
  | finalPad : r.status.active = true → r.status.mode = .dec →
      unpadCheck (cbcDecStep r.w (bytesOf r.din) (bytesOf r.chain)) = none →
      RegsOutcome r (.final 0) (setErr .pad (endSessionClear r))
  | finalDec (q : Block) (k : Nat) : r.status.active = true → r.status.mode = .dec →
      q = cbcDecStep r.w (bytesOf r.din) (bytesOf r.chain) → unpadCheck q = some k →
      RegsOutcome r (.final 0)
        (endSessionDone (putOutput (stripPad q k) r.din true (BitVec.ofNat 5 k) r))
  | abort : RegsOutcome r .abort (abortRegs r)
  | clear : RegsOutcome r .clear (clearRegs r)

/-- What a command that answers a next state did to the registers. -/
theorem exec_regs {i : Instr} {s t : State} (h : exec i s = .next t) :
    RegsOutcome s.regs i t.regs := by
  cases exec_outcome h with
  | nop => exact .nop
  | beginSeq b a => exact .beginSeq b a
  | beginKeyLen b a k => exact .beginKeyLen b a k
  | beginIvLen b a k v => exact .beginIvLen b a k v
  | opened b a k v => exact .opened b a k v
  | noSession b a => exact .noSession b a
  | block a =>
    rw [onRegsDrawing_regs]
    cases m : s.regs.status.mode with
    | enc => rw [blockRegs_enc m]; exact .blockEnc _ a m rfl
    | dec => rw [blockRegs_dec m]; exact .blockDec a m
  | finalEnc a m => rw [onRegsDrawing_regs]; exact .finalEnc _ a m rfl
  | finalBlockLen a m n => exact .finalBlockLen a m n
  | finalDec a m =>
    rw [onRegsDrawing_regs]
    rcases finalDecRegs_cases s.regs with ⟨hn, e⟩ | ⟨k, hk, e⟩ <;> rw [e]
    · exact .finalPad a m hn
    · exact .finalDec _ k a m rfl hk
  | abort => exact .abort
  | clear => rw [onRegsDrawing_regs]; exact .clear

/-- A command leaves the model's record of the outside world alone. -/
theorem exec_world {i : Instr} {s t : State} (h : exec i s = .next t) :
    t.inputs = s.inputs ∧ t.lag = s.lag ∧ t.reads = s.reads := by
  cases exec_outcome h <;> simp

/-- A successful BLOCK in either direction is one output inside the session. -/
theorem blockRegs_shape (r : Regs) : ∃ y ch, blockRegs r = putOutput y ch false 16 r := by
  cases h : r.status.mode
  · exact ⟨_, _, blockRegs_enc h⟩
  · exact ⟨_, _, blockRegs_dec h⟩

/-! The bus (R57 to R59). -/

/-- The register map, offset by offset (R52). -/
theorem winReg_cases {off : Nat} (h4 : off % 4 = 0) (h : off < 256) :
    (off = 0x00 ∧ winReg off = .cmd) ∨ (off = 0x04 ∧ winReg off = .status) ∨
    (off = 0x08 ∧ winReg off = .blkcnt) ∨
    (∃ k : Fin 8, off = 0x10 + 4 * k.val ∧ winReg off = .key k) ∨
    (∃ k : Fin 4, off = 0x30 + 4 * k.val ∧ winReg off = .iv k) ∨
    (∃ k : Fin 4, off = 0x40 + 4 * k.val ∧ winReg off = .din k) ∨
    (∃ k : Fin 4, off = 0x50 + 4 * k.val ∧ winReg off = .dout k) ∨
    (∃ k : Fin 4, off = 0x60 + 4 * k.val ∧ winReg off = .chain k) ∨
    ((off = 0x0C ∨ 0x70 ≤ off) ∧ winReg off = .reserved) := by
  have e : off = 4 * (off / 4) := by omega
  have hj : off / 4 < 64 := by omega
  rw [e]
  generalize off / 4 = j at hj
  revert j
  decide +kernel

theorem busWrite_busy {s : State} (h : busy s.regs = true) (off : Nat) (v : Word) :
    busWrite off v s = { s with regs := dropWrite s.regs } := by simp [busWrite, h]

theorem busWrite_idle_cmd {s : State} {off : Nat} (h : busy s.regs = false)
    (hw : winReg off = .cmd) (v : Word) : busWrite off v s = issueCommand v s := by
  simp [busWrite, h, hw]

theorem busWrite_idle_store {s : State} {off : Nat} (h : busy s.regs = false)
    (hw : winReg off ≠ .cmd) (v : Word) :
    busWrite off v s = { s with regs := storeWord s.regs off v } := by
  unfold busWrite
  rw [if_neg (by simp [h])]
  split
  · exact absurd ‹_› hw
  · rfl

theorem statusWord_bit0 (r : Regs) : (statusWord r).getLsbD 0 = busy r := by
  refine (BitVec.getLsbD_append (m := 1)).trans ?_
  cases busy r <;> rfl

theorem readStatus_bit0 (s : State) : (readValue s 4).getLsbD 0 = busy s.regs := by
  unfold readValue
  cases h : busy s.regs
  · have e : idleRead s.regs 4 = statusWord s.regs := rfl
    simp only [Bool.false_eq_true, if_false, e, statusWord_bit0, h]
  · have e : busyRead s.draws s.regs 4 = Config.busyDraw s.draws 4 s.regs ||| 1 := rfl
    simp [e]

/-- What a host step that answers a next state did. -/
theorem hostStep_cases {e : HostEvent} {rest : List HostEvent} {s t : State}
    (h : hostStep e rest s = .next t) :
    (∃ off, e = .read off 4 ∧ off % 4 = 0 ∧ off < 256 ∧ t = busRead off (takeEvent rest s)) ∨
    (∃ off v, e = .write off 4 v ∧ off % 4 = 0 ∧ off < 256 ∧
      t = busWrite off v (takeEvent rest s)) ∨
    (e = .wait ∧ busy s.regs = true ∧ t = busRead 4 (takeEvent (.wait :: rest) s)) ∨
    (e = .wait ∧ busy s.regs = false ∧ t = busRead 4 (takeEvent rest s)) ∨
    (e = .reset ∧ t = resetCore (takeEvent rest s)) := by
  have ok {off bytes : Nat} (hn : accessRefusal off bytes = none) :
      bytes = 4 ∧ off % 4 = 0 ∧ off < 256 := by
    unfold accessRefusal at hn
    split_ifs at hn
    omega
  cases e with
  | read off bytes =>
    simp only [hostStep] at h
    split at h
    · cases h
    · rename_i hn
      cases h
      obtain ⟨rfl, h4, h256⟩ := ok hn
      exact .inl ⟨off, rfl, h4, h256, rfl⟩
  | write off bytes v =>
    simp only [hostStep] at h
    split at h
    · cases h
    · rename_i hn
      cases h
      obtain ⟨rfl, h4, h256⟩ := ok hn
      exact .inr (.inl ⟨off, v, rfl, h4, h256, rfl⟩)
  | wait =>
    simp only [hostStep, readStatus_bit0] at h
    split_ifs at h with hb <;> cases h
    · exact .inr (.inr (.inl ⟨rfl, hb, rfl⟩))
    · exact .inr (.inr (.inr (.inl ⟨rfl, by simpa using hb, rfl⟩)))
  | reset =>
    simp only [hostStep] at h
    cases h
    exact .inr (.inr (.inr (.inr ⟨rfl, rfl⟩)))

/-! The engine and the step (R178, R63). -/

theorem engineStep_cases {v : Word} {s t : State} (h : engineStep v s = .next t) :
    (∃ why, decode v = .error why ∧ t = complete (onRegs (setErr .cmd) s)) ∨
    (∃ i u, decode v = .ok i ∧ exec i s = .next u ∧ t = complete u) := by
  unfold engineStep at h
  split at h
  · cases h; exact .inl ⟨_, ‹_›, rfl⟩
  · split at h <;> cases h
    exact .inr ⟨_, _, ‹_›, ‹_›, rfl⟩

theorem turn_engine_iff {s : State} {v : Word} :
    turn s = .engine v ↔ s.regs.pending = some v ∧ (s.lag = 0 ∨ s.inputs = []) := by
  unfold turn
  split <;> (try split_ifs) <;> simp_all

theorem turn_host_iff {s : State} {e : HostEvent} {rest : List HostEvent} :
    turn s = .host e rest ↔ s.inputs = e :: rest ∧ (s.regs.pending = none ∨ s.lag ≠ 0) := by
  unfold turn
  split <;> (try split_ifs) <;> simp_all

theorem turn_idle_iff {s : State} :
    turn s = .idle ↔ s.regs.pending = none ∧ s.inputs = [] := by
  unfold turn
  split <;> (try split_ifs) <;> simp_all

/-- What a step that answers a next state did: an engine step, a host step, or nothing. -/
theorem step_cases {s t : State} (h : step s = .next t) :
    (∃ v, s.regs.pending = some v ∧ (s.lag = 0 ∨ s.inputs = []) ∧ engineStep v s = .next t) ∨
    (∃ e rest, s.inputs = e :: rest ∧ (s.regs.pending = none ∨ s.lag ≠ 0) ∧
      hostStep e rest s = .next t) ∨
    (s.regs.pending = none ∧ s.inputs = [] ∧ t = s) := by
  unfold step at h
  split at h
  · rename_i v hv
    exact .inl ⟨v, (turn_engine_iff.mp hv).1, (turn_engine_iff.mp hv).2, h⟩
  · rename_i e rest he
    exact .inr (.inl ⟨e, rest, (turn_host_iff.mp he).1, (turn_host_iff.mp he).2, h⟩)
  · rename_i hi
    cases h
    exact .inr (.inr ⟨(turn_idle_iff.mp hi).1, (turn_idle_iff.mp hi).2, rfl⟩)

end Sys2Proof.Machine
end

