-- ==== Sys2Proof/Laws/PerInstr.lean ====
section
/-! SUPPORT. What is said of every command as syntax, one lemma per constructor: the word of a
well-formed command matches the row of the opcode table that bears its mnemonic, and no other row
(spec/30_encoding.md R82). -/

namespace Sys2Proof.Laws.MatchesOwnRow

/-- The word of a well-formed command matches exactly the row of its own mnemonic. -/
def Statement (i : Instr) : Prop :=
  i.wf = true →
    ∀ row ∈ opcodeTable, row.matchesWord (encode i) = (row.mnemonic == i.mnemonic)

theorem nop : Statement .nop := fun _ => by decide
theorem beginEnc : Statement .beginEnc := fun _ => by decide
theorem beginDec : Statement .beginDec := fun _ => by decide
theorem block : Statement .block := fun _ => by decide
theorem final (n : Nat) : Statement (.final n) := fun h => by
  have hn : n ≤ 15 := by simpa [Instr.wf] using h
  interval_cases n <;> decide
theorem abort : Statement .abort := fun _ => by decide
theorem clear : Statement .clear := fun _ => by decide

end Sys2Proof.Laws.MatchesOwnRow
end

