-- ==== Sys2Proof/Laws/Run.lean ====
section
/-! SUPPORT. Runs of the machine as sequences of steps. -/

namespace Sys2Proof.Machine

theorem run_zero (s : State) : Host.Core.run core 0 s = .next s := rfl

/-- A run whose first step answers a next state goes on from there. -/
theorem run_succ {s t : State} (h : step s = .next t) (k : Nat) :
    Host.Core.run core (k + 1) s = Host.Core.run core k t := by
  have e : core.step s = .next t := h
  simp only [Host.Core.run, e]

/-- Two runs, one after the other, are one run. -/
theorem run_trans {s t u : State} {k j : Nat} (h : Host.Core.run core k s = .next t)
    (h' : Host.Core.run core j t = .next u) : Host.Core.run core (k + j) s = .next u := by
  induction k generalizing s with
  | zero =>
    obtain rfl : s = t := Host.Outcome.next.inj h
    rw [Nat.zero_add]
    exact h'
  | succ k ih =>
    cases e : step s with
    | next v =>
      rw [run_succ e] at h
      rw [Nat.add_right_comm, run_succ e]
      exact ih h
    | fault why => cases why
    | refused why =>
      have e' : core.step s = .refused why := e
      simp only [Host.Core.run, e'] at h
      cases h

/-- When it is the engine's turn, the step is the engine's. -/
theorem step_engine {s : State} {v : Word} (hp : s.regs.pending = some v)
    (h : s.lag = 0 ∨ s.inputs = []) : step s = engineStep v s := by
  simp only [step, turn_engine_iff.mpr ⟨hp, h⟩]

/-- When it is the outside world's turn, the step is the host's. -/
theorem step_host {s : State} {e : HostEvent} {rest : List HostEvent} (hi : s.inputs = e :: rest)
    (h : s.regs.pending = none ∨ s.lag ≠ 0) : step s = hostStep e rest s := by
  simp only [step, turn_host_iff.mpr ⟨hi, h⟩]

end Sys2Proof.Machine
end

