-- ==== Sys2Proof/Tests/Slice0.lean ====
section
/-! SUPPORT. The model's own tests. Every expected value is the spec's: a printed table
(spec/41_datapath.md), a vector of spec/95_test_vectors.md, or a word written out from the encoding of
spec/30_encoding.md. Then one witness for each statement with hypotheses: a concrete state and
operands that meet all of them. -/

namespace Sys2Proof.Tests

open Sys2Proof Sys2Proof.Machine

set_option Elab.async false

/-! ## Helpers -/

/-- The block a 32-digit hex string spells, byte 0 first. -/
def blk (n : Nat) : Block := Vector.ofFn fun i => BitVec.ofNat 8 (n >>> (8 * (15 - i.val)))

/-- The key a 64-digit hex string spells, byte 0 first. -/
def keyHex (n : Nat) : KeyBytes := Vector.ofFn fun i => BitVec.ofNat 8 (n >>> (8 * (31 - i.val)))

/-- Key K1 of spec/95_test_vectors.md. -/
def k1 : KeyBytes := keyHex 0x000102030405060708090a0b0c0d0e0f101112131415161718191a1b1c1d1e1f

/-- The key of vector CBC-2. -/
def k2 : KeyBytes := keyHex 0x603deb1015ca71be2b73aef0857d77811f352c073b6108d72d9810a30914dff4

/-- The zero key. -/
def k0 : KeyBytes := keyHex 0

/-- Sixteen rows of a byte table, each as one number, the leftmost column first. -/
def tableRows (f : Byte → Byte) : List Nat :=
  (List.range 16).map fun r =>
    (List.range 16).foldl (fun acc c => acc * 256 + (f (BitVec.ofNat 8 (16 * r + c))).toNat) 0

/-- Registers with the presence masks given and no session. -/
def loaded (kw : BitVec 8) (vw : BitVec 4) : Regs :=
  { Regs.reset with status := { Status.reset with keyw := kw, ivw := vw } }

/-- Registers inside a session: the schedule of `key`, the chaining value and the input block given. -/
def session (m : Mode) (key : KeyBytes) (chain din : Nat) : Regs :=
  { loaded 0xFF 0xF with
    key := keyWordsOf key, chain := wordsOf (blk chain), din := wordsOf (blk din), w := expand key,
    status := { (loaded 0xFF 0xF).status with active := true, mode := m } }

/-- Registers inside a session whose schedule no test looks at. -/
def openRegs (m : Mode) : Regs :=
  { loaded 0xFF 0xF with status := { (loaded 0xFF 0xF).status with active := true, mode := m } }

/-- The machine with these registers and nothing else to do. -/
def withRegs (r : Regs) : State := { State.reset with regs := r }

/-- The registers after one step that runs the command word v. -/
def regsAfter (v : Word) (r : Regs) : Option Regs :=
  match step ((withRegs r).withFetchWord 32 v.toNat) with
  | .next t => some t.regs
  | .fault _ => none
  | .refused _ => none

/-- STATUS after one step that runs the command word v. -/
def statusAfter (v : Word) (r : Regs) : Option Word := (regsAfter v r).map statusWord

/-- The machine whose next event is e, with no command pending. -/
def idleHost (r : Regs) (e : HostEvent) : State := { withRegs r with inputs := [e] }

/-- The machine whose next event is e, with BLOCK pending and one host step left to the outside. -/
def busyHost (r : Regs) (e : HostEvent) : State :=
  { withRegs { r with pending := some 3 } with inputs := [e], lag := 1 }

/-- The registers after one step of the machine. -/
def stepRegs (s : State) : Option Regs :=
  match step s with
  | .next t => some t.regs
  | .fault _ => none
  | .refused _ => none

/-- The value the host reads in one step of the machine. -/
def stepRead (s : State) : Option Word :=
  match step s with
  | .next t => t.reads.head?.map fun x => x.value
  | .fault _ => none
  | .refused _ => none

/-- Why one step of the machine is refused. -/
def stepRefusal (s : State) : Option Refusal :=
  match step s with
  | .next _ => none
  | .fault _ => none
  | .refused why => some why

/-! ## Well-formedness (R81) -/

theorem test_wf_accepts_every_len : (List.range 16).all (fun n => (Instr.final n).wf) = true := by
  decide

theorem test_wf_refuses_final_16 : (Instr.final 16).wf = false := by decide

/-! ## Decoding: the words of R82, bit by bit -/

theorem test_decode_nop : decode 0b00000000000000000000_0000_0000_0000 = .ok .nop := by
  decide +kernel
theorem test_decode_begin_enc : decode 0b00000000000000000000_0000_0000_0001 = .ok .beginEnc := by
  decide +kernel
theorem test_decode_begin_dec : decode 0b00000000000000000000_0000_0000_0010 = .ok .beginDec := by
  decide +kernel
theorem test_decode_block : decode 0b00000000000000000000_0000_0000_0011 = .ok .block := by
  decide +kernel
theorem test_decode_final : decode 0b00000000000000000000_0000_0000_0100 = .ok (.final 0) ∧
    decode 0b00000000000000000000_0101_0000_0100 = .ok (.final 5) ∧
    decode 0b00000000000000000000_1111_0000_0100 = .ok (.final 15) := by decide +kernel
theorem test_decode_abort : decode 0b00000000000000000000_0000_0000_0101 = .ok .abort := by
  decide +kernel
theorem test_decode_clear : decode 0b00000000000000000000_0000_0000_0110 = .ok .clear := by
  decide +kernel

/-- CMD-3 to CMD-6 and the last reserved opcode (R84), each refused under its own name. -/
theorem test_decode_illegal :
    decode 0x00000007 = .error .reservedOpcode ∧ decode 0x0000000F = .error .reservedOpcode ∧
    decode 0x00000103 = .error .lenWithoutFinal ∧ decode 0x00000014 = .error .reservedField ∧
    decode 0x80000000 = .error .reservedField ∧ decode 0x00001000 = .error .reservedField := by
  decide +kernel

/-- The word of `FINAL #5` in program P2. -/
theorem test_encode_final : encode (.final 5) = 0x00000504 := by decide +kernel

theorem test_decode_table_word : decodeTableWord 32 0x00000504 = some (.final 5) ∧
    decodeTableWord 32 0x00000006 = some .clear ∧ decodeTableWord 32 0x00000007 = none := by
  decide +kernel

/-! ## The tables (R121 to R125) -/

/-- The printed table of R121. -/
theorem test_sbox_table : tableRows sbox =
    [ 0x637c777bf26b6fc53001672bfed7ab76, 0xca82c97dfa5947f0add4a2af9ca472c0,
      0xb7fd9326363ff7cc34a5e5f171d83115, 0x04c723c31896059a071280e2eb27b275,
      0x09832c1a1b6e5aa0523bd6b329e32f84, 0x53d100ed20fcb15b6acbbe394a4c58cf,
      0xd0efaafb434d338545f9027f503c9fa8, 0x51a3408f929d38f5bcb6da2110fff3d2,
      0xcd0c13ec5f974417c4a77e3d645d1973, 0x60814fdc222a908846eeb814de5e0bdb,
      0xe0323a0a4906245cc2d3ac629195e479, 0xe7c8376d8dd54ea96c56f4ea657aae08,
      0xba78252e1ca6b4c6e8dd741f4bbd8b8a, 0x703eb5664803f60e613557b986c11d9e,
      0xe1f8981169d98e949b1e87e9ce5528df, 0x8ca1890dbfe6426841992d0fb054bb16 ] := by
  decide +kernel

/-- The printed table of R122. -/
theorem test_inverse_sbox_table : tableRows invSbox =
    [ 0x52096ad53036a538bf40a39e81f3d7fb, 0x7ce339829b2fff87348e4344c4dee9cb,
      0x547b9432a6c2233dee4c950b42fac34e, 0x082ea16628d924b2765ba2496d8bd125,
      0x72f8f66486689816d4a45ccc5d65b692, 0x6c704850fdedb9da5e154657a78d9d84,
      0x90d8ab008cbcd30af7e45805b8b34506, 0xd02c1e8fca3f0f02c1afbd0301138a6b,
      0x3a9111414f67dcea97f2cfcef0b4e673, 0x96ac7422e7ad3585e2f937e81c75df6e,
      0x47f11a711d29c5896fb7620eaa18be1b, 0xfc563e4bc6d279209adbc0fe78cd5af4,
      0x1fdda8338807c731b11210592780ec5f, 0x60517fa919b54a0d2de57a9f93c99cef,
      0xa0e03b4dae2af5b0c8ebbb3c83539961, 0x172b047eba77d626e169146355210c7d ] := by
  decide +kernel

/-- The printed table of R125. -/
theorem test_mul2_table : tableRows mul2 =
    [ 0x00020406080a0c0e10121416181a1c1e, 0x20222426282a2c2e30323436383a3c3e,
      0x40424446484a4c4e50525456585a5c5e, 0x60626466686a6c6e70727476787a7c7e,
      0x80828486888a8c8e90929496989a9c9e, 0xa0a2a4a6a8aaacaeb0b2b4b6b8babcbe,
      0xc0c2c4c6c8caccced0d2d4d6d8dadcde, 0xe0e2e4e6e8eaeceef0f2f4f6f8fafcfe,
      0x1b191f1d131117150b090f0d03010705, 0x3b393f3d333137352b292f2d23212725,
      0x5b595f5d535157554b494f4d43414745, 0x7b797f7d737177756b696f6d63616765,
      0x9b999f9d939197958b898f8d83818785, 0xbbb9bfbdb3b1b7b5aba9afada3a1a7a5,
      0xdbd9dfddd3d1d7d5cbc9cfcdc3c1c7c5, 0xfbf9fffdf3f1f7f5ebe9efede3e1e7e5 ] := by
  decide +kernel

/-- The printed table of R125. -/
theorem test_mul3_table : tableRows mul3 =
    [ 0x000306050c0f0a09181b1e1d14171211, 0x303336353c3f3a39282b2e2d24272221,
      0x606366656c6f6a69787b7e7d74777271, 0x505356555c5f5a59484b4e4d44474241,
      0xc0c3c6c5cccfcac9d8dbdeddd4d7d2d1, 0xf0f3f6f5fcfffaf9e8ebeeede4e7e2e1,
      0xa0a3a6a5acafaaa9b8bbbebdb4b7b2b1, 0x909396959c9f9a99888b8e8d84878281,
      0x9b989d9e97949192838085868f8c898a, 0xaba8adaea7a4a1a2b3b0b5b6bfbcb9ba,
      0xfbf8fdfef7f4f1f2e3e0e5e6efece9ea, 0xcbc8cdcec7c4c1c2d3d0d5d6dfdcd9da,
      0x5b585d5e57545152434045464f4c494a, 0x6b686d6e67646162737075767f7c797a,
      0x3b383d3e37343132232025262f2c292a, 0x0b080d0e07040102131015161f1c191a ] := by
  decide +kernel

/-- The printed table of R125. -/
theorem test_mul9_table : tableRows mul9 =
    [ 0x0009121b242d363f48415a536c657e77, 0x9099828bb4bda6afd8d1cac3fcf5eee7,
      0x3b3229201f160d04737a6168575e454c, 0xaba2b9b08f869d94e3eaf1f8c7ced5dc,
      0x767f646d525b40493e372c251a130801, 0xe6eff4fdc2cbd0d9aea7bcb58a839891,
      0x4d445f5669607b72050c171e2128333a, 0xddd4cfc6f9f0ebe2959c878eb1b8a3aa,
      0xece5fef7c8c1dad3a4adb6bf8089929b, 0x7c756e6758514a43343d262f1019020b,
      0xd7dec5ccf3fae1e89f968d84bbb2a9a0, 0x474e555c636a71780f061d142b223930,
      0x9a938881beb7aca5d2dbc0c9f6ffe4ed, 0x0a0318112e273c35424b5059666f747d,
      0xa1a8b3ba858c979ee9e0fbf2cdc4dfd6, 0x3138232a151c070e79706b625d544f46 ] := by
  decide +kernel

/-- The printed table of R125. -/
theorem test_mul11_table : tableRows mul11 =
    [ 0x000b161d2c273a3158534e45747f6269, 0xb0bba6ad9c978a81e8e3fef5c4cfd2d9,
      0x7b706d66575c414a2328353e0f041912, 0xcbc0ddd6e7ecf1fa9398858ebfb4a9a2,
      0xf6fde0ebdad1ccc7aea5b8b38289949f, 0x464d505b6a617c771e1508033239242f,
      0x8d869b90a1aab7bcd5dec3c8f9f2efe4, 0x3d362b20111a070c656e737849425f54,
      0xf7fce1eadbd0cdc6afa4b9b28388959e, 0x474c515a6b607d761f1409023338252e,
      0x8c879a91a0abb6bdd4dfc2c9f8f3eee5, 0x3c372a21101b060d646f727948435e55,
      0x010a171c2d263b3059524f44757e6368, 0xb1baa7ac9d968b80e9e2fff4c5ced3d8,
      0x7a716c67565d404b2229343f0e051813, 0xcac1dcd7e6edf0fb9299848fbeb5a8a3 ] := by
  decide +kernel

/-- The printed table of R125. -/
theorem test_mul13_table : tableRows mul13 =
    [ 0x000d1a1734392e236865727f5c51464b, 0xd0ddcac7e4e9fef3b8b5a2af8c81969b,
      0xbbb6a1ac8f829598d3dec9c4e7eafdf0, 0x6b66717c5f524548030e1914373a2d20,
      0x6d60777a5954434e05081f12313c2b26, 0xbdb0a7aa8984939ed5d8cfc2e1ecfbf6,
      0xd6dbccc1e2eff8f5beb3a4a98a87909d, 0x060b1c11323f28256e6374795a57404d,
      0xdad7c0cdeee3f4f9b2bfa8a5868b9c91, 0x0a07101d3e332429626f7875565b4c41,
      0x616c7b7655584f420904131e3d30272a, 0xb1bcaba685889f92d9d4c3ceede0f7fa,
      0xb7baada0838e9994dfd2c5c8ebe6f1fc, 0x676a7d70535e49440f0215183b36212c,
      0x0c01161b3835222f64697e73505d4a47, 0xdcd1c6cbe8e5f2ffb4b9aea3808d9a97 ] := by
  decide +kernel

/-- The printed table of R125. -/
theorem test_mul14_table : tableRows mul14 =
    [ 0x000e1c123836242a707e6c624846545a, 0xe0eefcf2d8d6c4ca909e8c82a8a6b4ba,
      0xdbd5c7c9e3edfff1aba5b7b9939d8f81, 0x3b352729030d1f114b455759737d6f61,
      0xada3b1bf959b8987ddd3c1cfe5ebf9f7, 0x4d43515f757b69673d33212f050b1917,
      0x76786a644e40525c06081a143e30222c, 0x96988a84aea0b2bce6e8faf4ded0c2cc,
      0x414f5d537977656b313f2d230907151b, 0xa1afbdb39997858bd1dfcdc3e9e7f5fb,
      0x9a948688a2acbeb0eae4f6f8d2dccec0, 0x7a746668424c5e500a041618323c2e20,
      0xece2f0fed4dac8c69c92808ea4aab8b6, 0x0c02101e343a28267c72606e444a5856,
      0x37392b250f01131d47495b557f71636d, 0xd7d9cbc5efe1f3fda7a9bbb59f91838d ] := by
  decide +kernel

/-- R123 and DP-1: gmul(57, 13) = fe, xtime(80) = 1b. -/
theorem test_gmul : gmul 0x57 0x13 = 0xFE ∧ xtime 0x80 = 0x1B := by decide +kernel

/-! ## The datapath (DP-2, DP-3) -/

/-- DP-2: the four transforms on the block of the known-answer test. -/
theorem test_transforms :
    fromState (subBytes (toState (blk 0x00112233445566778899aabbccddeeff))) =
      blk 0x638293c31bfc33f5c4eeacea4bc12816 ∧
    fromState (shiftRows (toState (blk 0x00112233445566778899aabbccddeeff))) =
      blk 0x0055aaff4499ee3388dd2277cc1166bb ∧
    fromState (mixColumns (toState (blk 0x00112233445566778899aabbccddeeff))) =
      blk 0x2277005566334411aaff88ddeebbcc99 := by
  decide +kernel

/-- DP-2: the inverse transforms on the same block. -/
theorem test_inverse_transforms :
    fromState (invSubBytes (toState (blk 0x00112233445566778899aabbccddeeff))) =
      blk 0x52e3946686edd30297f962fe27c9997d ∧
    fromState (invShiftRows (toState (blk 0x00112233445566778899aabbccddeeff))) =
      blk 0x00ddaa774411eebb885522ffcc996633 ∧
    fromState (invMixColumns (toState (blk 0x00112233445566778899aabbccddeeff))) =
      blk 0xaaff88ddeebbcc992277005566334411 := by
  decide +kernel

/-- DP-2: AddRoundKey with round key 1 of K1. -/
theorem test_add_round_key :
    fromState (addRoundKey (expand k1) 1 (toState (blk 0x00112233445566778899aabbccddeeff))) =
      blk 0x10003020504070609080b0a0d0c0f0e0 := by
  decide +kernel

/-! ## The key schedule (KS-1, KS-2, KS-3) -/

theorem test_rot_and_sub_word : rotWord 0x09cf4f3c = 0xcf4f3c09 ∧
    subWord 0xcf4f3c09 = 0x8a84eb01 := by decide +kernel

/-- KS-1: words 0, 8, 9, 12, 56 and 59 of the schedule of K1. -/
theorem test_expand_k1 : (expand k1)[0] = 0x00010203 ∧ (expand k1)[8] = 0xa573c29f ∧
    (expand k1)[9] = 0xa176c498 ∧ (expand k1)[12] = 0x1651a8cd ∧ (expand k1)[56] = 0x24fc79cc ∧
    (expand k1)[59] = 0x6d68de36 := by
  decide +kernel

/-- KS-2: words 8, 12 and 59 of the schedule of the zero key. -/
theorem test_expand_zero : (expand k0)[8] = 0x62636363 ∧ (expand k0)[12] = 0xaafbfbfb ∧
    (expand k0)[59] = 0xcb706385 := by
  decide +kernel

/-! ## The round pipeline (L1-1, RP-3, RP-4) -/

/-- L1-1: the source's known-answer test. -/
theorem test_encrypt_block : encryptBlock (blk 0x00112233445566778899aabbccddeeff) (expand k1) =
    blk 0x8ea2b7ca516745bfeafc49904b496089 := by
  decide +kernel

/-- L1-1, the state after round 1: no transform of a middle round is dropped. -/
theorem test_first_round :
    fromState (encRounds (expand k1) (toState (blk 0x00112233445566778899aabbccddeeff)) 1) =
      blk 0x4f63760643e0aa85efa7213201a4e705 := by
  decide +kernel

/-- RP-3: DecryptBlock of the zero block under the zero key. -/
theorem test_decrypt_block : decryptBlock (blk 0) (expand k0) =
    blk 0x67671ce1fa91ddeb0f8fbbb366b531b4 := by
  decide +kernel

/-! ## Padding (PAD-1, R184) -/

theorem test_pad_final : padFinal (blk 0x48454c4c4f0000000000000000000000) 5 =
      blk 0x48454c4c4f0b0b0b0b0b0b0b0b0b0b0b ∧
    padFinal (blk 0x48454c4c4f0000000000000000000000) 0 =
      blk 0x10101010101010101010101010101010 := by
  decide +kernel

/-- R184 and PAD-3: 0x10 keeps 0 bytes, 0x01 keeps 15, the bytes 07 07 03 keep 13, 0x00 and 0x11
fail. -/
theorem test_unpad_check : unpadCheck (blk 0x10) = some 0 ∧ unpadCheck (blk 0x01) = some 15 ∧
    unpadCheck (blk 0x070703) = some 13 ∧ unpadCheck (blk 0x00) = none ∧
    unpadCheck (blk 0x11) = none := by
  decide +kernel

/-- L1-5: a message of 17 bytes has two ciphertext blocks. -/
theorem test_encrypt_message : encryptMessage k0 (blk 0) ((List.range 17).map (BitVec.ofNat 8)) =
    [blk 0xb65d30030c88b44c975a343f93fb3c09, blk 0x2b22b046103a3312eb1af5cf2677a411] := by
  decide +kernel

/-- L1-5, backwards: those two blocks decrypt to the 17 bytes. -/
theorem test_decrypt_message : decryptMessage k0 (blk 0)
    [blk 0xb65d30030c88b44c975a343f93fb3c09, blk 0x2b22b046103a3312eb1af5cf2677a411] =
      some ((List.range 17).map (BitVec.ofNat 8)) := by
  decide +kernel

/-! ## The commands: one step each -/

/-- CMD-12: NOP after PAD clears ERR and keeps MODE. -/
theorem test_nop : statusAfter 0x00000000 { loaded 0xFF 0xF with
    status := { (loaded 0xFF 0xF).status with mode := .dec, err := .pad } } =
      some 0xff00f004 := by
  decide +kernel

/-- CMD-2, CMD-7 and RST-1: BEGIN_ENC without the key, without the IV, and right after reset. -/
theorem test_begin_enc_errors : statusAfter 0x00000001 (loaded 0x7F 0) = some 0x7f000100 ∧
    statusAfter 0x00000001 (loaded 0xFF 0) = some 0xff000200 ∧
    statusAfter 0x00000001 Regs.reset = some 0x00000100 := by
  decide +kernel

/-- P1: BEGIN_ENC opens a session; R181: then W[8] is a573c29f. -/
theorem test_begin_enc_opens :
    (regsAfter 0x00000001 { loaded 0xFF 0xF with key := keyWordsOf k1 }).map
      (fun r => (statusWord r, r.w[8])) = some (0xff00f002, 0xa573c29f) := by
  decide +kernel

/-- CMD-8 and CMD-9: BEGIN_DEC without the whole IV, BEGIN_ENC inside a session. -/
theorem test_begin_dec_errors : statusAfter 0x00000002 (loaded 0xFF 0x7) = some 0xff007200 ∧
    statusAfter 0x00000001 (openRegs .dec) = some 0xff00f406 := by
  decide +kernel

/-- P5: BEGIN_DEC opens a session, and CHAIN is the IV. -/
theorem test_begin_dec_opens :
    (regsAfter 0x00000002 { loaded 0xFF 0xF with
        iv := wordsOf (blk 0x000102030405060708090a0b0c0d0e0f) }).map
      (fun r => (statusWord r, r.chain[3])) = some (0xff00f006, 0x0c0d0e0f) := by
  decide +kernel

/-- P1: BLOCK in an encrypting session gives the known-answer ciphertext, in DOUT and in CHAIN. -/
theorem test_block_encrypts :
    (regsAfter 0x00000003 (session .enc k1 0 0x00112233445566778899aabbccddeeff)).map
      (fun r => (statusWord r, r.dout, r.chain == r.dout, r.blkcnt)) =
    some (0xff10f00a, wordsOf (blk 0x8ea2b7ca516745bfeafc49904b496089), true, 1) := by
  decide +kernel

/-- P5 and CBC-4: BLOCK in a decrypting session under a non-zero IV; CHAIN is the ciphertext. And CMD-1:
BLOCK outside a session. -/
theorem test_block_decrypts :
    (regsAfter 0x00000003 (session .dec k2 0x000102030405060708090a0b0c0d0e0f
      0xf58c4c04d6e5f1ba779eabfb5f7bfbd6)).map (fun r => (statusWord r, r.dout, r.chain)) =
    some (0xff10f00e, wordsOf (blk 0x6bc1bee22e409f96e93d7e117393172a),
      wordsOf (blk 0xf58c4c04d6e5f1ba779eabfb5f7bfbd6)) ∧
    statusAfter 0x00000003 Regs.reset = some 0x00000400 := by
  decide +kernel

/-- P2: FINAL #5 encrypts "HELLO" with its padding and ends the session. -/
theorem test_final_encrypts :
    (regsAfter 0x00000504 (session .enc k0 0 0x48454c4c4f0000000000000000000000)).map
      (fun r => (statusWord r, r.dout, r.w == Vector.replicate 60 0)) =
    some (0xff10f018, wordsOf (blk 0xb88321f7a4bd8dc609bfd335cf25e503), true) := by
  decide +kernel

/-- P2: FINAL #0 decrypts "HELLO" and strips the padding; CMD-11: PAD; CMD-10: BLOCK_LEN. -/
theorem test_final_decrypts :
    (regsAfter 0x00000004 (session .dec k0 0 0xb88321f7a4bd8dc609bfd335cf25e503)).map
      (fun r => (statusWord r, r.dout)) =
    some (0xff05f01c, wordsOf (blk 0x48454c4c4f0000000000000000000000)) ∧
    statusAfter 0x00000004 (session .dec k0 0 0xdc95c078a2408989ad48a21492842087) =
      some 0xff00f304 ∧
    statusAfter 0x00000104 (openRegs .dec) = some 0xff00f604 := by
  decide +kernel

/-- CMD-14: ABORT in an encrypting session after one BLOCK. -/
theorem test_abort :
    (regsAfter 0x00000005 { openRegs .enc with
        blkcnt := 1, chain := Vector.replicate 4 7, dout := Vector.replicate 4 7,
        status := { (openRegs .enc).status with dv := true, outlen := 16 } }).map
      (fun r => (statusWord r, r.blkcnt, r.chain, r.dout)) =
    some (0xff00f000, 0, Vector.replicate 4 0, Vector.replicate 4 0) := by
  decide +kernel

/-- CMD-13: CLEAR from an open session with OVR set. -/
theorem test_clear : regsAfter 0x00000006 { openRegs .dec with
    key := Vector.replicate 8 9, status := { (openRegs .dec).status with ovr := true } } =
      some Regs.reset := by
  decide +kernel

/-- CMD-3 to CMD-6: an illegal word changes ERR only; here a session stays open. -/
theorem test_illegal_words : statusAfter 0x00000007 (openRegs .dec) = some 0xff00f506 ∧
    statusAfter 0x00000103 (openRegs .dec) = some 0xff00f506 ∧
    statusAfter 0x00000014 (openRegs .dec) = some 0xff00f506 ∧
    statusAfter 0x80000000 (openRegs .dec) = some 0xff00f506 := by
  decide +kernel

/-! ## The bus: one step each -/

/-- R52, R36: a write to KEY7 stores the word and sets KEYW[7]; the key reads as 0. -/
theorem test_key_write :
    (stepRegs (idleHost Regs.reset (.write 0x2C 4 0x1c1d1e1f))).map
      (fun r => (r.key[7], statusWord r, idleRead r 0x2C)) = some (0x1c1d1e1f, 0x80000000, 0) := by
  decide +kernel

/-- R53: DIN0 holds the first four bytes of the block, the first the most significant. -/
theorem test_din_write :
    (stepRegs (idleHost Regs.reset (.write 0x40 4 0x00112233))).map
      (fun r => ((bytesOf r.din)[1], (bytesOf r.din)[3], idleRead r 0x40)) =
    some (0x11, 0x33, 0x00112233) := by
  decide +kernel

/-- R57: a CMD write puts the word in PENDING. -/
theorem test_cmd_write :
    (stepRegs (idleHost Regs.reset (.write 0x00 4 3))).map (fun r => (r.pending, busy r)) =
      some (some 3, true) := by
  decide +kernel

/-- CMD-17 (a): a DIN0 write while BLOCK is pending is dropped and sets OVR. -/
theorem test_write_while_busy :
    (stepRegs (busyHost (openRegs .enc) (.write 0x40 4 0x12345678))).map
      (fun r => (r.din[0], r.status.ovr, r.pending)) = some (0, true, some 3) := by
  decide +kernel

/-- R59: the STATUS read of an idle core, and RST-1: every offset reads 0 after reset. -/
theorem test_idle_read : stepRead (idleHost (openRegs .dec) (.read 0x04 4)) = some 0xff00f006 ∧
    (List.range 64).all (fun i => idleRead Regs.reset (4 * i) == 0) = true := by
  decide +kernel

/-- R55, R51: accesses the interface cannot express are refused by name. -/
theorem test_inexpressible_accesses :
    stepRefusal (idleHost Regs.reset (.read 0x04 2)) = some .notOneWord ∧
    stepRefusal (idleHost Regs.reset (.write 0x05 4 0)) = some .misaligned ∧
    stepRefusal (idleHost Regs.reset (.read 0x100 4)) = some .outsideWindow ∧
    stepRefusal (idleHost Regs.reset (.read 0xFC 4)) = none := by
  decide +kernel

/-- RST-2: reset discards the pending command. -/
theorem test_reset_input : stepRegs (busyHost (openRegs .enc) .reset) = some Regs.reset := by
  decide +kernel

/-- R51, R61: the place of the window is a parameter. -/
theorem test_window_offset : windowOffset 0x40000000 0x40000050 = some 0x50 ∧
    windowOffset 0x40000000 0x40000100 = none := by
  decide +kernel

/-! ## Witnesses: concrete inputs that meet the hypotheses of each statement -/

/-- A machine whose engine runs the command word v next. -/
def engineState (v : Word) (r : Regs) : State := withRegs { r with pending := some v }

theorem witness_DecodeUndoesEncode : (Instr.final 0).wf = true ∧ (Instr.final 15).wf = true := by
  decide

theorem witness_EncodeUndoesDecode : decode 0x00000F04 = .ok (.final 15) ∧
    decode 0x00000006 = .ok .clear := by decide +kernel

theorem witness_LegalWordsMatchExactlyOneRow : decode 0x00000504 = .ok (.final 5) ∧
    decode 0x00000007 = .error .reservedOpcode := by decide +kernel

theorem witness_IllegalWordsOnlySetErrCmd : decode 0x00000007 = .error .reservedOpcode ∧
    EngineTurn (engineState 7 Regs.reset) 7 := ⟨by decide +kernel, rfl, .inl rfl⟩

theorem witness_StepRunsTheDecodedCommand : decode 0x00000504 = .ok (.final 5) ∧
    EngineTurn (engineState 0x504 Regs.reset) 0x504 := ⟨by decide +kernel, rfl, .inl rfl⟩

theorem witness_ByteOrderIsBigEndian : bytesOf #v[0, 1, 2, 3] = blk 0x00000000000000010000000200000003 := by
  decide +kernel

theorem witness_SBoxIsAffineImageOfInverse : (0x53 : Byte) ≠ 0 ∧ gmul 0x53 0xCA = 1 := by
  decide +kernel

theorem witness_MixColumnsIsCirculantAndInvertible :
    ∀ r, entry (matrixOf fun _ _ => 0xC6) r 2 = 0xC6 := by decide +kernel

/-- The three branches, at the ends of the range of i. -/
theorem witness_ExpandFollowsTheRecurrence : (8 % 8 = 0 ∧ 56 % 8 = 0) ∧
    (12 % 8 = 4 ∧ 52 % 8 = 4) ∧ (9 % 8 ≠ 0 ∧ 9 % 8 ≠ 4 ∧ 59 % 8 ≠ 0 ∧ 59 % 8 ≠ 4) := by decide

theorem witness_CiphertextFlipReachesTwoBlocks : blk 0x01 ≠ Vector.replicate 16 0 := by
  decide +kernel

theorem witness_UnpadUndoesPadFinal : (0 ≤ 15 ∧ 15 ≤ 15) ∧ ((0 : Fin 16).val < 15 ∧
    15 ≤ (15 : Fin 16).val) := by decide

theorem witness_UnpadCheckReadsOnlyTheLastByte : (blk 0x00)[15] = 0 ∧ 16 < (blk 0x11)[15].toNat ∧
    (blk 0x01)[15].toNat = 1 ∧ (blk 0x10)[15].toNat = 16 ∧ (blk 0x0703)[15] = (blk 0x03)[15] := by
  decide +kernel

theorem witness_EncryptMessageChainsItsBlocks : 1 ≤ [(0 : Byte)].length / 16 + 1 ∧
    0 ≤ ([] : List Byte).length / 16 := by decide

theorem witness_DecryptedBlockNeedsTwoCiphertextBlocks : 1 < [blk 0, blk 1].length := by decide

/-- SEQ, KEY_LEN, IV_LEN and success, one state each. -/
theorem witness_BeginOpensSessionOrNamesTheError :
    (openRegs .enc).status.active = true ∧
    ((loaded 0x7F 0).status.active = false ∧ (loaded 0x7F 0).status.keyw ≠ 0xFF) ∧
    ((loaded 0xFF 7).status.active = false ∧ (loaded 0xFF 7).status.keyw = 0xFF ∧
      (loaded 0xFF 7).status.ivw ≠ 0xF) ∧
    ((loaded 0xFF 0xF).status.active = false ∧ (loaded 0xFF 0xF).status.keyw = 0xFF ∧
      (loaded 0xFF 0xF).status.ivw = 0xF) := by
  decide +kernel

theorem witness_BlockProcessesDinUnderChain : Regs.reset.status.active = false ∧
    ((openRegs .enc).status.active = true ∧ (openRegs .enc).status.mode = .enc) ∧
    ((openRegs .dec).status.active = true ∧ (openRegs .dec).status.mode = .dec) := by
  decide +kernel

theorem witness_FinalEncryptsThePaddedBlock : 0 ≤ 15 ∧ 15 ≤ 15 ∧
    Regs.reset.status.active = false ∧
    (openRegs .enc).status.active = true ∧ (openRegs .enc).status.mode = .enc := by
  decide +kernel

/-- The last byte of the block that a session decrypts under a zero chaining value. -/
def lastByte (r : Regs) : Byte :=
  (xorBlock (decryptBlock (bytesOf r.din) r.w) (bytesOf r.chain))[15]

/-- PAD-2, rows 01 and 10: the ends of the range of the last byte. -/
theorem witness_FinalDecryptsAndStripsThePadding :
    (openRegs .dec).status.active = true ∧ (openRegs .dec).status.mode = .dec ∧
    (lastByte (session .dec k0 0 0x530f8afbc74536b9a963b4f1c4cb738b)).toNat = 1 ∧
    (lastByte (session .dec k0 0 0x1490a05a7cee43bde98b56e309dc0126)).toNat = 16 := by
  decide +kernel

/-- PAD-2, rows 00 and 11, and the ends of the range of n. -/
theorem witness_DecryptingFinalFailsClosed :
    (openRegs .dec).status.active = true ∧ (openRegs .dec).status.mode = .dec ∧
    ((1 ≠ 0 ∧ 1 ≤ 15) ∧ (15 ≠ 0 ∧ 15 ≤ 15)) ∧
    (lastByte (session .dec k0 0 0xdc95c078a2408989ad48a21492842087)).toNat = 0 ∧
    (lastByte (session .dec k0 0 0x4ed6df6e82c1bfc72a59ad53a9c0e434)).toNat = 17 := by
  decide +kernel

theorem witness_ClearRestoresTheResetValues : decode 6 = .ok .clear ∧
    ∃ u, engineStep 6 (engineState 6 (openRegs .enc)) = .next u := ⟨by decide +kernel, _, rfl⟩

/-- The outcome of a command. -/
def errAfter (i : Instr) (r : Regs) : Option ErrCode :=
  match exec i (withRegs r) with
  | .next t => some t.regs.status.err
  | .fault _ => none
  | .refused _ => none

/-- Every outcome of every command occurs: the statements over all commands are about something. -/
theorem witness_outcomes :
    errAfter .nop Regs.reset = some .none ∧
    (errAfter .beginEnc (loaded 0xFF 0xF) = some .none ∧
      errAfter .beginDec (loaded 0xFF 0xF) = some .none) ∧
    (errAfter .beginEnc (openRegs .enc) = some .seq ∧
      errAfter .beginDec (openRegs .dec) = some .seq) ∧
    (errAfter .beginEnc (loaded 0x7F 0xF) = some .keyLen ∧
      errAfter .beginDec (loaded 0xFF 0x7) = some .ivLen) ∧
    (errAfter .block (openRegs .enc) = some .none ∧ errAfter .block (openRegs .dec) = some .none ∧
      errAfter .block Regs.reset = some .seq) ∧
    (errAfter (.final 15) (openRegs .enc) = some .none ∧
      errAfter (.final 0) Regs.reset = some .seq ∧
      errAfter (.final 1) (openRegs .dec) = some .blockLen) ∧
    (errAfter .abort (openRegs .enc) = some .none ∧ errAfter .clear Regs.reset = some .none) := by
  decide +kernel

/-- PAD-2, rows 01 and 00: the two outcomes of a decrypting FINAL #0. -/
theorem witness_final_dec_outcomes :
    errAfter (.final 0) (session .dec k0 0 0x530f8afbc74536b9a963b4f1c4cb738b) = some .none ∧
    errAfter (.final 0) (session .dec k0 0 0xdc95c078a2408989ad48a21492842087) = some .pad := by
  decide +kernel

theorem witness_CommandsLeaveTheirFrame : (Instr.block ≠ .clear ∧
    ∃ t, exec .block (withRegs (openRegs .enc)) = .next t) ∧
    (0xFC % 4 = 0 ∧ 0xFC < 256 ∧ 0xFC ≠ 0x04 ∧ 0x70 ≤ 0xFC) ∧
    (0x4C % 4 = 0 ∧ 0x4C < 256 ∧ 0x4C ≠ 0x08 ∧ 0x4C < 0x50) := by
  exact ⟨⟨by decide, _, rfl⟩, by decide, by decide⟩

theorem witness_SessionStateFollowsItsTable :
    decode 0x00000007 = .error .reservedOpcode ∧
    errAfter (.final 1) (openRegs .dec) = some .blockLen ∧
    errAfter (.final 0) (session .dec k0 0 0x530f8afbc74536b9a963b4f1c4cb738b) = some .none :=
  ⟨by decide +kernel, witness_outcomes.2.2.2.2.2.1.2.2, witness_final_dec_outcomes.1⟩

theorem witness_ErrorsAreAllOrNothing :
    errAfter .block Regs.reset = some .seq ∧
    errAfter (.final 0) (session .dec k0 0 0xdc95c078a2408989ad48a21492842087) = some .pad :=
  ⟨witness_outcomes.2.2.2.2.1.2.2, witness_final_dec_outcomes.2⟩

theorem witness_OutputFlagsFollowTheOutcome :
    errAfter .block (openRegs .enc) = some .none ∧
    errAfter (.final 0) (session .dec k0 0 0x530f8afbc74536b9a963b4f1c4cb738b) = some .none :=
  ⟨witness_outcomes.2.2.2.2.1.1, witness_final_dec_outcomes.1⟩

/-- A counter at its top wraps to 0. -/
theorem witness_BlkcntCountsCompletedBlocks :
    errAfter .block { openRegs .enc with blkcnt := 0xFFFFFFFF } = some .none ∧
    (((0xFFFFFFFF : Word).toNat + 1) % 2 ^ 32 = 0) := by
  decide +kernel

theorem witness_OvrIsStickyUntilClearOrReset :
    (HostTurn (busyHost Regs.reset (.write 0xFC 4 0)) (.write 0xFC 4 0) [] ∧
      busy (busyHost Regs.reset (.write 0xFC 4 0)).regs = true) ∧
    (stepRegs (engineState 6 { Regs.reset with status := { Status.reset with ovr := true } })).map
      (fun r => r.status.ovr) = some false ∧
    (stepRegs (busyHost Regs.reset (.write 0 4 0))).map (fun r => r.status.ovr) = some true :=
  ⟨⟨⟨rfl, .inr (by decide)⟩, rfl⟩, by decide +kernel, by decide +kernel⟩

theorem witness_KeyAndIvWritesDoNotReachTheSession :
    (∃ t, exec .block (withRegs (openRegs .enc)) = .next t) ∧
    ∃ t, exec (.final 15) (withRegs (openRegs .enc)) = .next t := ⟨⟨_, rfl⟩, _, rfl⟩

/-- Two input blocks that agree on the first byte and on no other. -/
theorem witness_DinBeyondLenIsIgnored :
    (openRegs .enc).status.active = true ∧ (openRegs .enc).status.mode = .enc ∧ 1 ≤ 15 ∧
    ∀ i : Fin 16, i.val < 1 →
      (bytesOf (wordsOf (blk 0x00ffffffffffffffffffffffffffffff)))[i.val] =
        (bytesOf (openRegs .enc).din)[i.val] := by
  decide +kernel

theorem witness_NewSessionForgetsThePast :
    errAfter .beginDec { loaded 0xFF 0xF with blkcnt := 5, chain := Vector.replicate 4 1 } =
      some .none := by
  decide +kernel

theorem witness_WorkingRegistersHaveNoEffect :
    SameButWork State.reset { State.reset with work := matrixOf fun _ _ => 0xFF, round := 14 } := rfl

theorem witness_IdleWriteStoresOrIssues :
    HostTurn (idleHost Regs.reset (.write 0x2C 4 0)) (.write 0x2C 4 0) [] ∧
    (0x2C = 0x10 + 4 * (7 : Fin 8).val ∧ 0x3C = 0x30 + 4 * (3 : Fin 4).val ∧
      0x4C = 0x40 + 4 * (3 : Fin 4).val) ∧ (0x04 ≤ 0x0C ∧ 0x0C ≤ 0x0C) ∧ 0x50 ≤ 0xFC :=
  ⟨⟨rfl, .inl rfl⟩, by decide, by decide, by decide⟩

theorem witness_BusyWriteIsDropped :
    HostTurn (busyHost Regs.reset (.write 0x00 4 3)) (.write 0x00 4 3) [] ∧
    busy (busyHost Regs.reset (.write 0x00 4 3)).regs = true :=
  ⟨⟨rfl, .inr (by decide)⟩, rfl⟩

theorem witness_IdleReadReturnsTheRegisterMap :
    HostTurn (idleHost Regs.reset (.read 0x6C 4)) (.read 0x6C 4) [] ∧
    (0x3C = 0x30 + 4 * (3 : Fin 4).val ∧ 0x6C = 0x60 + 4 * (3 : Fin 4).val) ∧
    (0x10 ≤ 0x2C ∧ 0x2C < 0x30) ∧ 0x70 ≤ 0xFC :=
  ⟨⟨rfl, .inl rfl⟩, by decide, by decide, by decide⟩

theorem witness_BusyReadShowsOnlyBusy :
    HostTurn (busyHost Regs.reset (.read 0x04 4)) (.read 0x04 4) [] ∧
    busy (busyHost Regs.reset (.read 0x04 4)).regs = true :=
  ⟨⟨rfl, .inr (by decide)⟩, rfl⟩

theorem witness_WaitReadsStatusUntilIdle :
    (HostTurn (idleHost Regs.reset .wait) .wait [] ∧
      busy (idleHost Regs.reset .wait).regs = false) ∧
    (HostTurn (busyHost Regs.reset .wait) .wait [] ∧
      busy (busyHost Regs.reset .wait).regs = true) :=
  ⟨⟨⟨rfl, .inl rfl⟩, rfl⟩, ⟨rfl, .inr (by decide)⟩, rfl⟩

theorem witness_OnlyInexpressibleAccessesAreRefused :
    HostTurn (idleHost Regs.reset (.read 0x100 4)) (.read 0x100 4) [] ∧
    expressible (.read 0x100 4) = false ∧ expressible (.write 0xFD 4 0) = false ∧
    expressible (.write 0xFC 4 0) = true :=
  ⟨⟨rfl, .inl rfl⟩, by decide, by decide, by decide⟩

theorem witness_SafeInputsNeverStop :
    SafeInputs { State.reset with inputs := [.write 0 4 3, .wait, .read 0x50 4, .reset] } := by
  unfold SafeInputs
  decide

theorem witness_ResetPutsEveryRegisterToZero : (∃ r : Regs, r = State.reset.regs) ∧
    HostTurn (busyHost (openRegs .enc) .reset) .reset [] :=
  ⟨⟨_, rfl⟩, rfl, .inr (by decide)⟩

theorem witness_KeyAndScheduleAreNotReadable :
    SameButSecret (openRegs .enc)
      { openRegs .enc with key := Vector.replicate 8 1, w := Vector.replicate 60 1 } ∧
    (∀ off bytes v, HostEvent.write off bytes v ∈ [HostEvent.write 0x10 4 7, .read 0x10 4] →
      off ≠ 0) := by
  refine ⟨rfl, fun off bytes v h => ?_⟩
  simp at h
  omega

theorem witness_PendingCommandSeesTheRegistersAsIssued :
    (busyHost (openRegs .enc) .wait).regs.pending = some 3 ∧
    HostTurn (busyHost (openRegs .enc) .wait) .wait [] ∧ HostEvent.wait ≠ .reset ∧
    ∃ t, step (busyHost (openRegs .enc) (.write 0x40 4 1)) = .next t :=
  ⟨rfl, ⟨rfl, .inr (by decide)⟩, by decide, _, rfl⟩

theorem witness_PendingCommandCompletesInTime :
    (busyHost (openRegs .enc) .wait).regs.pending ≠ none ∧
    SafeInputs (busyHost (openRegs .enc) .wait) := by
  unfold SafeInputs
  decide

/-- The registers of a decrypting session under the zero key after its first BLOCK. -/
def sessionAfterBlock : Regs :=
  { session .dec k0 0 0 with
    blkcnt := 1, dout := Vector.replicate 4 9,
    status := { (session .dec k0 0 0).status with dv := true, outlen := 16 } }

/-- The invariant holds inside a session that has produced a block, and the machine steps on. -/
theorem witness_EveryStepKeepsTheInvariant :
    Inv (withRegs sessionAfterBlock) ∧
    ∃ t, step (withRegs sessionAfterBlock) = .next t := by
  refine ⟨⟨⟨?_, ?_, ?_, ?_, ?_, ?_, ?_, ?_, ?_, ?_, ?_⟩, fun _ => rfl⟩, _, rfl⟩ <;> decide +kernel

theorem witness_HostProcedureComputesEncryptMessage :
    let m : List Byte := [0x48, 0x45, 0x4C, 0x4C, 0x4F]
    let last := blk 0x48454c4c4fffffffffffffffffffffff
    let s : State := { State.reset with inputs := encryptProcedure k0 (blk 0) m last }
    (∀ i : Fin 16, i.val < m.length % 16 → last[i.val] = m.getD (16 * (m.length / 16) + i.val) 0) ∧
    s.regs.pending = none ∧ s.regs.status.active = false ∧ s.reads = [] ∧
    s.inputs = encryptProcedure k0 (blk 0) m last :=
  ⟨by decide +kernel, rfl, rfl, rfl, rfl⟩

theorem witness_HostProcedureComputesDecryptMessage :
    let s : State := { State.reset with inputs := decryptProcedure k0 (blk 0) [blk 1] (blk 2) }
    s.regs.pending = none ∧ s.regs.status.active = false ∧ s.reads = [] ∧
    s.inputs = decryptProcedure k0 (blk 0) [blk 1] (blk 2) :=
  ⟨rfl, rfl, rfl, rfl⟩

end Sys2Proof.Tests
end

section
/-! SUPPORT. What the proofs about the state share: what a host write does, `exec` command by
command, the converse of `exec_regs`, and the frame of the commands. -/

namespace Sys2Proof.Machine

/-! Host writes (R57, R58). -/

@[simp] theorem storeWord_pending (r : Regs) (off : Nat) (v : Word) :
    (storeWord r off v).pending = r.pending := by
  unfold storeWord
  split <;> rfl

@[simp] theorem storeWord_ovr (r : Regs) (off : Nat) (v : Word) :
    (storeWord r off v).status.ovr = r.status.ovr := by
  unfold storeWord
  split <;> rfl

/-- What a host write does: dropped, a command issued, or a word stored (R57, R58). -/
theorem busWrite_cases (off : Nat) (v : Word) (s : State) :
    (busy s.regs = true ∧ busWrite off v s = { s with regs := dropWrite s.regs }) ∨
    (busy s.regs = false ∧ busWrite off v s = issueCommand v s) ∨
    (busy s.regs = false ∧ busWrite off v s = { s with regs := storeWord s.regs off v }) := by
  cases hb : busy s.regs with
  | true => exact .inl ⟨rfl, busWrite_busy hb off v⟩
  | false =>
    by_cases hw : winReg off = .cmd
    · exact .inr (.inl ⟨rfl, busWrite_idle_cmd hb hw v⟩)
    · exact .inr (.inr ⟨rfl, busWrite_idle_store hb hw v⟩)

/-- A host write sets OVR while BUSY = 1 and leaves it otherwise (R34, R58). -/
theorem busWrite_ovr (off : Nat) (v : Word) (s : State) :
    (busWrite off v s).regs.status.ovr = (busy s.regs || s.regs.status.ovr) := by
  rcases busWrite_cases off v s with ⟨hb, e⟩ | ⟨hb, e⟩ | ⟨hb, e⟩ <;> rw [e, hb] <;> simp

theorem hostStep_write {off : Nat} (h4 : off % 4 = 0) (h256 : off < 256) (v : Word)
    (rest : List HostEvent) (s : State) :
    hostStep (.write off 4 v) rest s = .next (busWrite off v (takeEvent rest s)) := by
  simp [hostStep, accessRefusal, h4, Nat.not_le.mpr h256]

/-! The engine on an illegal word, and what UnpadCheck answers (R225, R184). -/

/-- The engine completes an illegal word with ERR = CMD and nothing else (R225). -/
theorem engineStep_illegal {v : Word} {why : Illegal} {s t : State} (hd : decode v = .error why)
    (h : engineStep v s = .next t) : t = complete (onRegs (setErr .cmd) s) := by
  rcases engineStep_cases h with ⟨_, -, e⟩ | ⟨i, u, hi, -⟩
  · exact e
  · simp [hd] at hi

/-- What UnpadCheck keeps is what the last byte leaves of sixteen (R184). -/
theorem unpadCheck_some {q : Block} {k : Nat} (h : unpadCheck q = some k) :
    k = 16 - q[15].toNat := by
  unfold unpadCheck at h
  split_ifs at h
  simpa using h.symm

/-- The OUTLEN field holds what UnpadCheck keeps. -/
theorem outlen_of_unpadCheck {q : Block} {k : Nat} (h : unpadCheck q = some k) :
    (BitVec.ofNat 5 k).toNat = k := by
  have := unpadCheck_le h
  simp; omega

/-! `exec` of each command, by the session it finds. -/

theorem exec_begin {i : Instr} {m : Mode} (hi : Begins i m) (s : State) :
    exec i s = .next (onRegs (beginSession m) s) := by cases hi <;> rfl

theorem exec_block_active {s : State} (ha : s.regs.status.active = true) :
    exec .block s = .next (onRegsDrawing blockRegs s) := if_pos ha

theorem exec_needsSession_idle {i : Instr} (hi : NeedsSession i) {s : State}
    (ha : s.regs.status.active = false) : exec i s = .next (onRegs (raiseError .seq) s) := by
  cases hi <;> exact if_neg (by simp [ha])

theorem exec_final_enc {n : Nat} {s : State} (ha : s.regs.status.active = true)
    (hm : s.regs.status.mode = .enc) :
    exec (.final n) s = .next (onRegsDrawing (finalEncRegs n) s) := by
  simp [exec, execFinal, ha, hm]

theorem exec_final_blockLen {n : Nat} {s : State} (ha : s.regs.status.active = true)
    (hm : s.regs.status.mode = .dec) (hn : n ≠ 0) :
    exec (.final n) s = .next (onRegs (raiseError .blockLen) s) := by
  simp [exec, execFinal, ha, hm, hn]

theorem exec_final_zero_dec {s : State} (ha : s.regs.status.active = true)
    (hm : s.regs.status.mode = .dec) :
    exec (.final 0) s = .next (onRegsDrawing finalDecRegs s) := by
  simp [exec, execFinal, ha, hm]

/-- A command applies one function to the registers, with or without a draw, and the registers alone
decide which. -/
theorem exec_shape (i : Instr) (r : Regs) : ∃ f : Regs → Regs,
    (∀ s : State, s.regs = r → exec i s = .next (onRegs f s)) ∨
    (∀ s : State, s.regs = r → exec i s = .next (onRegsDrawing f s)) := by
  cases i with
  | nop => exact ⟨_, .inl fun _ _ => rfl⟩
  | beginEnc => exact ⟨_, .inl fun s _ => exec_begin .enc s⟩
  | beginDec => exact ⟨_, .inl fun s _ => exec_begin .dec s⟩
  | block =>
    cases ha : r.status.active with
    | false => exact ⟨_, .inl fun s hs => exec_needsSession_idle .block (hs ▸ ha)⟩
    | true => exact ⟨_, .inr fun s hs => exec_block_active (hs ▸ ha)⟩
  | final n =>
    cases ha : r.status.active with
    | false => exact ⟨_, .inl fun s hs => exec_needsSession_idle (.final n) (hs ▸ ha)⟩
    | true =>
      cases hm : r.status.mode with
      | enc => exact ⟨_, .inr fun s hs => exec_final_enc (hs ▸ ha) (hs ▸ hm)⟩
      | dec =>
        by_cases hn : n = 0
        · subst hn
          exact ⟨_, .inr fun s hs => exec_final_zero_dec (hs ▸ ha) (hs ▸ hm)⟩
        · exact ⟨_, .inl fun s hs => exec_final_blockLen (hs ▸ ha) (hs ▸ hm) hn⟩
  | abort => exact ⟨_, .inl fun _ _ => rfl⟩
  | clear => exact ⟨_, .inr fun _ _ => rfl⟩

/-- The converse of `exec_regs`: an outcome open to the registers is the one `exec` gives. -/
theorem exec_of_regsOutcome {i : Instr} {s : State} {q : Regs} (o : RegsOutcome s.regs i q) :
    ∃ t, exec i s = .next t ∧ t.regs = q := by
  cases o with
  | nop => exact ⟨_, rfl, rfl⟩
  | beginSeq hb ha => exact ⟨_, exec_begin hb s, if_pos ha⟩
  | beginKeyLen hb ha hk =>
    exact ⟨_, exec_begin hb s, (if_neg (by simp [ha])).trans (if_pos hk)⟩
  | beginIvLen hb ha hk hv =>
    exact ⟨_, exec_begin hb s, (if_neg (by simp [ha])).trans
      ((if_neg (not_not.mpr hk)).trans (if_pos hv))⟩
  | opened hb ha hk hv => exact ⟨_, exec_begin hb s, by simp [beginSession, ha, hk, hv]⟩
  | noSession hn ha => exact ⟨_, exec_needsSession_idle hn ha, rfl⟩
  | blockEnc y ha hm hy => exact ⟨_, exec_block_active ha, hy ▸ blockRegs_enc hm⟩
  | blockDec ha hm => exact ⟨_, exec_block_active ha, blockRegs_dec hm⟩
  | finalEnc y ha hm hy => exact ⟨_, exec_final_enc ha hm, hy ▸ rfl⟩
  | finalBlockLen ha hm hn => exact ⟨_, exec_final_blockLen ha hm hn, rfl⟩
  | finalPad ha hm hp =>
    exact ⟨_, exec_final_zero_dec ha hm, by
      rw [onRegsDrawing_regs, finalDecRegs, hp]; rfl⟩
  | finalDec y k ha hm hy hk =>
    subst hy
    exact ⟨_, exec_final_zero_dec ha hm, by simp [finalDecRegs, hk]⟩
  | abort => exact ⟨_, rfl, rfl⟩
  | clear => exact ⟨_, rfl, rfl⟩

/-! The frame of every command but CLEAR. -/

/-- What the host has written, the command being executed and OVR stand as they did. -/
structure SameHostSide (r q : Regs) : Prop where
  key : q.key = r.key
  iv : q.iv = r.iv
  din : q.din = r.din
  pending : q.pending = r.pending
  keyw : q.status.keyw = r.status.keyw
  ivw : q.status.ivw = r.status.ivw
  ovr : q.status.ovr = r.status.ovr

theorem RegsOutcome.sameHostSide {r q : Regs} {i : Instr} (o : RegsOutcome r i q)
    (hi : i ≠ .clear) : SameHostSide r q := by
  cases o with
  | clear => exact absurd rfl hi
  | _ => exact ⟨rfl, rfl, rfl, rfl, rfl, rfl, rfl⟩

end Sys2Proof.Machine
end

section
/-! SUPPORT. The invariant: it holds at reset (O57), and every step of either agent keeps it
(O58). -/

namespace Sys2Proof.Machine

/-! The schedule carries its key in its first eight words (R104). -/

theorem expandLoop_keeps_first_words (n : Nat) (hn : n ≤ 52) (w : Schedule) (i : Nat)
    (hi : i < 8) : (expandLoop n hn w)[i] = w[i] := by
  induction n with
  | zero => rfl
  | succ n ih =>
    have hne : n + 8 ≠ i := by omega
    simpa [expandLoop, expandStep, hne] using ih _

theorem expand_first_words (key : KeyBytes) (i : Nat) (hi : i < 8) :
    (expand key)[i] = (keyWordsOf key)[i] := by
  unfold expand
  rw [expandLoop_keeps_first_words _ _ _ i hi]
  simp [initialWords, hi]

@[simp] theorem scheduleKey_expand (key : KeyBytes) : scheduleKey (expand key) = key := by
  have h : (Vector.ofFn fun k : Fin 8 => (expand key)[k.val]) = keyWordsOf key := by
    ext k hk : 1
    simp [expand_first_words]
  rw [scheduleKey, h, keyBytesOf_keyWordsOf]

/-! What of the registers the invariant speaks of, and when it is kept. -/

/-- The registers `q` continue the session state of `r`: the outputs, the chain, the schedule and
the session flags stand as they did, and complete presence bits are still complete. ERR, OVR, KEY,
IV, DIN and PENDING are free. -/
structure SameSession (r q : Regs) : Prop where
  dout : q.dout = r.dout
  chain : q.chain = r.chain
  blkcnt : q.blkcnt = r.blkcnt
  w : q.w = r.w
  active : q.status.active = r.status.active
  mode : q.status.mode = r.status.mode
  dv : q.status.dv = r.status.dv
  last : q.status.last = r.status.last
  outlen : q.status.outlen = r.status.outlen
  keyw : r.status.keyw = 0xFF → q.status.keyw = 0xFF
  ivw : r.status.ivw = 0xF → q.status.ivw = 0xF

theorem SameSession.refl (r : Regs) : SameSession r r :=
  ⟨rfl, rfl, rfl, rfl, rfl, rfl, rfl, rfl, rfl, id, id⟩

theorem sameSession_setErr (e : ErrCode) (r : Regs) : SameSession r (setErr e r) :=
  ⟨rfl, rfl, rfl, rfl, rfl, rfl, rfl, rfl, rfl, id, id⟩

theorem sameSession_dropWrite (r : Regs) : SameSession r (dropWrite r) :=
  ⟨rfl, rfl, rfl, rfl, rfl, rfl, rfl, rfl, rfl, id, id⟩

theorem sameSession_pending (p : Option Word) (r : Regs) : SameSession r { r with pending := p } :=
  ⟨rfl, rfl, rfl, rfl, rfl, rfl, rfl, rfl, rfl, id, id⟩

theorem markKey_complete (k : Fin 8) {st : Status} (h : st.keyw = 0xFF) :
    (markKey k st).keyw = 0xFF := by
  rw [markKey_keyw, h]
  exact BitVec.allOnes_or

theorem markIv_complete (k : Fin 4) {st : Status} (h : st.ivw = 0xF) :
    (markIv k st).ivw = 0xF := by
  rw [markIv_ivw, h]
  exact BitVec.allOnes_or

theorem sameSession_storeWord (r : Regs) (off : Nat) (v : Word) :
    SameSession r (storeWord r off v) := by
  unfold storeWord
  split
  case h_1 k _ =>
    exact ⟨rfl, rfl, rfl, rfl, rfl, rfl, rfl, rfl, rfl, markKey_complete k, id⟩
  case h_2 k _ =>
    exact ⟨rfl, rfl, rfl, rfl, rfl, rfl, rfl, rfl, rfl, id, markIv_complete k⟩
  case h_3 =>
    exact ⟨rfl, rfl, rfl, rfl, rfl, rfl, rfl, rfl, rfl, id, id⟩
  all_goals exact .refl r

theorem RegsInv.of_sameSession {r q : Regs} (h : RegsInv r) (e : SameSession r q) : RegsInv q where
  outlen_le := by simpa only [e.outlen] using h.outlen_le
  dout_zero := by simpa only [e.outlen, e.dout] using h.dout_zero
  no_output := by simpa only [e.dv, e.last, e.outlen] using h.no_output
  last_iff := by simpa only [e.dv, e.last, e.active] using h.last_iff
  full_block := by simpa only [e.dv, e.last, e.outlen] using h.full_block
  masks ha := (h.masks (e.active ▸ ha)).imp e.keyw e.ivw
  schedule := by simpa only [e.active, e.w] using h.schedule
  schedule_idle := by simpa only [e.active, e.w] using h.schedule_idle
  enc_chain := by simpa only [e.dv, e.mode, e.chain, e.dout] using h.enc_chain
  fresh := by simpa only [e.active, e.dv, e.blkcnt] using h.fresh
  idle_chain := by simpa only [e.active, e.dv, e.chain] using h.idle_chain

theorem bytesOf_zero_getElem (i : Fin 16) : (bytesOf (Vector.replicate 4 0))[i.val] = 0 := by
  rw [bytesOf_zero]
  exact Vector.getElem_replicate _

/-- No session, no output, and DOUT, CHAIN and W at zero: what ABORT, CLEAR, the errors that end a
session and reset leave. -/
structure NoSession (r : Regs) : Prop where
  active : r.status.active = false
  dv : r.status.dv = false
  last : r.status.last = false
  outlen : r.status.outlen = 0
  dout : r.dout = Vector.replicate 4 0
  chain : r.chain = Vector.replicate 4 0
  w : r.w = Vector.replicate 60 0

theorem noSession_reset : NoSession Regs.reset := ⟨rfl, rfl, rfl, rfl, rfl, rfl, rfl⟩

theorem noSession_clearRegs (r : Regs) : NoSession (clearRegs r) :=
  ⟨rfl, rfl, rfl, rfl, rfl, rfl, rfl⟩

theorem noSession_abortRegs (r : Regs) : NoSession (abortRegs r) :=
  ⟨rfl, rfl, rfl, rfl, rfl, rfl, rfl⟩

theorem noSession_endSessionClear (e : ErrCode) (r : Regs) :
    NoSession (setErr e (endSessionClear r)) := ⟨rfl, rfl, rfl, rfl, rfl, rfl, rfl⟩

theorem NoSession.regsInv {r : Regs} (h : NoSession r) : RegsInv r where
  outlen_le := by simp [h.outlen]
  dout_zero i _ := by rw [h.dout]; exact bytesOf_zero_getElem i
  no_output _ := ⟨h.last, h.outlen⟩
  last_iff hd := by simp [h.dv] at hd
  full_block hd := by simp [h.dv] at hd
  masks ha := by simp [h.active] at ha
  schedule ha := by simp [h.active] at ha
  schedule_idle _ := h.w
  enc_chain hd := by simp [h.dv] at hd
  fresh ha := by simp [h.active] at ha
  idle_chain _ _ := h.chain

/-- A session opens with complete presence bits and the schedule of KEY (R181, R182). -/
theorem regsInv_openSession (m : Mode) {r : Regs} (hk : r.status.keyw = 0xFF)
    (hv : r.status.ivw = 0xF) : RegsInv (openSession m r) where
  outlen_le := by simp
  dout_zero i _ := bytesOf_zero_getElem i
  no_output _ := ⟨rfl, rfl⟩
  last_iff hd := by simp at hd
  full_block hd := by simp at hd
  masks _ := ⟨hk, hv⟩
  schedule _ := by simp
  schedule_idle ha := by simp at ha
  enc_chain hd := by simp at hd
  fresh _ _ := rfl
  idle_chain ha := by simp at ha

/-- A BLOCK puts a whole block out and keeps the session; an encrypting one chains on its output. -/
theorem RegsInv.blockOutput {r : Regs} (h : RegsInv r) (ha : r.status.active = true) (y : Block)
    (ch : Quad) (hc : r.status.mode = .enc → ch = wordsOf y) :
    RegsInv (putOutput y ch false 16 r) where
  outlen_le := by simp
  dout_zero i hi := absurd i.isLt (Nat.not_lt.mpr hi)
  no_output hd := by simp at hd
  last_iff _ := by simp [ha]
  full_block _ _ := rfl
  masks := h.masks
  schedule := h.schedule
  schedule_idle := h.schedule_idle
  enc_chain _ hm := hc hm
  fresh _ hd := by simp at hd
  idle_chain _ hd := by simp at hd

/-- A successful FINAL puts `len` bytes out and ends the session. -/
theorem regsInv_finalOutput {y : Block} {ch : Quad} {len : BitVec 5} {r : Regs}
    (hlen : len.toNat ≤ 16) (hy : ∀ i : Fin 16, len.toNat ≤ i.val → y[i.val] = 0)
    (hc : r.status.mode = .enc → ch = wordsOf y) :
    RegsInv (endSessionDone (putOutput y ch true len r)) where
  outlen_le := hlen
  dout_zero i hi := by simpa using hy i hi
  no_output hd := by simp at hd
  last_iff _ := by simp
  full_block _ hl := by simp at hl
  masks ha := by simp at ha
  schedule ha := by simp at ha
  schedule_idle _ := rfl
  enc_chain _ hm := hc hm
  fresh ha := by simp at ha
  idle_chain _ hd := by simp at hd

theorem stripPad_zero (q : Block) (k : Nat) (i : Fin 16) (h : k ≤ i.val) :
    (stripPad q k)[i.val] = 0 := by
  simp [stripPad, Nat.not_lt.mpr h]

/-- Every outcome of every command keeps the invariant of the registers. -/
theorem RegsOutcome.keeps_inv {r q : Regs} {i : Instr} (o : RegsOutcome r i q) (h : RegsInv r) :
    RegsInv q := by
  cases o with
  | nop | beginSeq | beginKeyLen | beginIvLen | noSession =>
    exact h.of_sameSession (sameSession_setErr _ r)
  | opened _ _ hk hv => exact regsInv_openSession _ hk hv
  | blockEnc y ha _ _ => exact h.blockOutput ha y _ fun _ => rfl
  | blockDec ha hm => exact h.blockOutput ha _ _ fun he => by simp [hm] at he
  | finalEnc y ha _ _ =>
    exact regsInv_finalOutput (by decide) (fun i hi => absurd i.isLt (Nat.not_lt.mpr hi))
      fun _ => rfl
  | finalBlockLen | finalPad => exact (noSession_endSessionClear _ r).regsInv
  | finalDec y k _ hm _ hk =>
    have hlen := outlen_of_unpadCheck hk
    have hle := unpadCheck_le hk
    exact regsInv_finalOutput (by omega) (fun i hi => stripPad_zero y k i (by omega))
      fun he => by simp [hm] at he
  | abort => exact (noSession_abortRegs r).regsInv
  | clear => exact (noSession_clearRegs r).regsInv

/-! The steps. -/

theorem complete_keeps_inv {s : State} (h : RegsInv s.regs) : Inv (complete s) :=
  ⟨h.of_sameSession (sameSession_pending none s.regs), fun _ => rfl⟩

theorem engineStep_keeps_inv {v : Word} {s t : State} (h : Inv s) (hs : engineStep v s = .next t) :
    Inv t := by
  rcases engineStep_cases hs with ⟨_, _, rfl⟩ | ⟨i, u, _, hx, rfl⟩
  · exact complete_keeps_inv (h.regs.of_sameSession (sameSession_setErr _ _))
  · exact complete_keeps_inv ((exec_regs hx).keeps_inv h.regs)

theorem takeEvent_keeps_inv {s : State} (h : Inv s) (rest : List HostEvent) :
    Inv (takeEvent rest s) :=
  ⟨h.regs, fun hp => by simp [h.lag_idle hp]⟩

theorem busWrite_keeps_inv {s : State} (h : Inv s) (off : Nat) (v : Word) :
    Inv (busWrite off v s) := by
  rcases busWrite_cases off v s with ⟨_, e⟩ | ⟨_, e⟩ | ⟨_, e⟩ <;> rw [e]
  · exact ⟨h.regs.of_sameSession (sameSession_dropWrite _), h.lag_idle⟩
  · exact ⟨h.regs.of_sameSession (sameSession_pending _ _), fun hp => by simp at hp⟩
  · exact ⟨h.regs.of_sameSession (sameSession_storeWord _ off v),
      fun hp => h.lag_idle (by simpa using hp)⟩

theorem busRead_keeps_inv {s : State} (h : Inv s) (off : Nat) : Inv (busRead off s) :=
  ⟨h.regs, h.lag_idle⟩

theorem resetCore_inv (s : State) : Inv (resetCore s) := ⟨noSession_reset.regsInv, fun _ => rfl⟩

theorem hostStep_keeps_inv {e : HostEvent} {rest : List HostEvent} {s t : State} (h : Inv s)
    (hs : hostStep e rest s = .next t) : Inv t := by
  rcases hostStep_cases hs with ⟨off, -, -, -, rfl⟩ | ⟨off, v, -, -, -, rfl⟩ | ⟨-, -, rfl⟩ |
    ⟨-, -, rfl⟩ | ⟨-, rfl⟩
  · exact busRead_keeps_inv (takeEvent_keeps_inv h _) off
  · exact busWrite_keeps_inv (takeEvent_keeps_inv h _) off v
  · exact busRead_keeps_inv (takeEvent_keeps_inv h _) 4
  · exact busRead_keeps_inv (takeEvent_keeps_inv h _) 4
  · exact resetCore_inv _

/-- Settles O58: each agent's step keeps the invariant, and an idle machine stays as it is. -/
theorem everyStepKeepsTheInvariant : Obligations.EveryStepKeepsTheInvariant := by
  intro s t h hs
  rcases step_cases hs with ⟨v, -, -, he⟩ | ⟨e, rest, -, -, hh⟩ | ⟨-, -, rfl⟩
  · exact engineStep_keeps_inv h he
  · exact hostStep_keeps_inv h hh
  · exact h

/-- Settles O57: reset leaves no session, and no command pending. -/
theorem resetSatisfiesTheInvariant : Obligations.ResetSatisfiesTheInvariant :=
  ⟨noSession_reset.regsInv, fun _ => rfl⟩

end Sys2Proof.Machine
end

section
/-! SUPPORT. All commands, outcome by outcome: what they leave alone (O35), the session state (O36)
and the output flags (O38). -/

namespace Sys2Proof.Machine

theorem RegsOutcome.w_of_nop_or_block {r q : Regs} {i : Instr} (o : RegsOutcome r i q)
    (hi : i = .nop ∨ i = .block) : q.w = r.w := by
  cases o with
  | opened hb => cases hb <;> simp at hi
  | finalEnc | finalBlockLen | finalPad | finalDec | abort | clear => simp at hi
  | _ => rfl

/-- A read of an offset other than STATUS's sees IV, DIN, BLKCNT, DOUT and CHAIN alone, and the last
three only at their own offsets (R52). -/
theorem idleRead_congr {r q : Regs} {off : Nat} (h4 : off % 4 = 0) (h256 : off < 256)
    (hs : off ≠ 0x04) (hiv : q.iv = r.iv) (hdin : q.din = r.din)
    (hout : (q.blkcnt = r.blkcnt ∧ q.dout = r.dout ∧ q.chain = r.chain) ∨
      (off ≠ 0x08 ∧ (off < 0x50 ∨ 0x70 ≤ off))) :
    idleRead q off = idleRead r off := by
  rcases winReg_cases h4 h256 with ⟨-, hw⟩ | ⟨ho, -⟩ | ⟨ho, hw⟩ | ⟨k, -, hw⟩ | ⟨k, -, hw⟩ |
    ⟨k, -, hw⟩ | ⟨k, ho, hw⟩ | ⟨k, ho, hw⟩ | ⟨-, hw⟩
  · simp [idleRead, hw]
  · exact absurd ho hs
  · rcases hout with ⟨hb, -, -⟩ | ⟨hne, -⟩
    · simp [idleRead, hw, hb]
    · exact absurd ho hne
  · simp [idleRead, hw]
  · simp [idleRead, hw, hiv]
  · simp [idleRead, hw, hdin]
  · rcases hout with ⟨-, hd, -⟩ | ⟨-, hr⟩
    · simp [idleRead, hw, hd]
    · omega
  · rcases hout with ⟨-, -, hc⟩ | ⟨-, hr⟩
    · simp [idleRead, hw, hc]
    · omega
  · simp [idleRead, hw]

theorem RegsOutcome.eq_of_nop {r q : Regs} (o : RegsOutcome r .nop q) : q = setErr .none r := by
  cases o with
  | nop => rfl
  | beginSeq hb | beginKeyLen hb | beginIvLen hb | opened hb => cases hb
  | noSession hn => cases hn

/-- Settles O35: the registers by the outcomes of `exec_regs`, the outside world by `exec_world`, the
window by what a read sees. -/
theorem commandsLeaveTheirFrame : Obligations.CommandsLeaveTheirFrame := by
  intro i s t hi h
  have o := exec_regs h
  obtain ⟨hkey, hiv, hdin, hpending, hkeyw, hivw, hovr⟩ := o.sameHostSide hi
  obtain ⟨hinputs, hlag, hreads⟩ := exec_world h
  refine ⟨hkey, hiv, hdin, hpending, hkeyw, hivw, hovr, hinputs, hlag, hreads,
    o.w_of_nop_or_block, fun off h4 h256 hs hoff => ?_⟩
  refine idleRead_congr h4 h256 hs hiv hdin (hoff.imp_left ?_)
  rintro rfl
  rw [o.eq_of_nop]
  exact ⟨rfl, rfl, rfl⟩

/-- Settles O36: each outcome of a command against the rows of the table. -/
theorem sessionStateFollowsItsTable : Obligations.SessionStateFollowsItsTable := by
  refine ⟨fun v why s t hd h => ?_, fun i s t h => ?_⟩
  · rw [engineStep_illegal hd h]
    exact ⟨rfl, rfl, rfl⟩
  rintro _ _ _ _ _ rfl rfl rfl rfl rfl
  have o := exec_regs h
  generalize t.regs = q at o
  cases o with
  | nop => simp
  | beginSeq hb ha | beginKeyLen hb ha | beginIvLen hb ha | opened hb ha =>
    cases hb <;> simp [ha]
  | noSession hn ha => cases hn <;> simp [ha]
  | blockEnc _ ha | blockDec ha | finalEnc _ ha | finalDec _ _ ha => simp [ha]
  | finalBlockLen ha hm | finalPad ha hm => simp [ha, hm]
  | abort => simp
  | clear => simp [Status.reset]

/-- Settles O38: each outcome of a command against its output flags. -/
theorem outputFlagsFollowTheOutcome : Obligations.OutputFlagsFollowTheOutcome := by
  refine ⟨fun v why s t hd h => ?_, fun i s t h => ?_⟩
  · rw [engineStep_illegal hd h]
    exact ⟨rfl, rfl, rfl⟩
  rintro _ rfl
  have o := exec_regs h
  generalize t.regs = q at o
  cases o with
  | nop => simp
  | beginSeq hb | beginKeyLen hb | beginIvLen hb | opened hb => cases hb <;> simp
  | noSession hn => cases hn <;> simp
  | blockEnc | blockDec => simp
  | finalEnc y ha hm => simp [hm]
  | finalBlockLen | finalPad => simp
  | finalDec q k ha hm hq hk =>
    subst hq
    have hlen : (BitVec.ofNat 5 k).toNat ≤ 15 ∧ (BitVec.ofNat 5 k).toNat =
        16 - (xorBlock (decryptBlock (bytesOf s.regs.din) s.regs.w)
          (bytesOf s.regs.chain))[15].toNat := by
      rw [outlen_of_unpadCheck hk]
      exact ⟨unpadCheck_le hk, unpadCheck_some hk⟩
    simpa [hm] using hlen
  | abort => simp
  | clear => simp [Status.reset]

end Sys2Proof.Machine
end

section
/-! SUPPORT. BLKCNT and OVR: when they change, and that nothing depends on them (O39, O40). -/

namespace Sys2Proof.Machine

/-- The registers with OVR at `b`. -/
def withOvr (b : Bool) (r : Regs) : Regs := { r with status := { r.status with ovr := b } }

/-- The registers with BLKCNT at `c`. -/
def withBlkcnt (c : Word) (r : Regs) : Regs := { r with blkcnt := c }

/-- No outcome but CLEAR's depends on OVR (R34). -/
theorem RegsOutcome.map_withOvr {r q : Regs} {i : Instr} (o : RegsOutcome r i q) (hi : i ≠ .clear)
    (b : Bool) : RegsOutcome (withOvr b r) i (withOvr b q) := by
  cases o with
  | nop => exact .nop
  | beginSeq hb ha => exact .beginSeq hb ha
  | beginKeyLen hb ha hk => exact .beginKeyLen hb ha hk
  | beginIvLen hb ha hk hv => exact .beginIvLen hb ha hk hv
  | opened hb ha hk hv => exact .opened hb ha hk hv
  | noSession hn ha => exact .noSession hn ha
  | blockEnc y ha hm hy => exact .blockEnc y ha hm hy
  | blockDec ha hm => exact .blockDec ha hm
  | finalEnc y ha hm hy => exact .finalEnc y ha hm hy
  | finalBlockLen ha hm hn => exact .finalBlockLen ha hm hn
  | finalPad ha hm hp => exact .finalPad ha hm hp
  | finalDec y k ha hm hy hk => exact .finalDec y k ha hm hy hk
  | abort => exact .abort
  | clear => exact absurd rfl hi

/-- No outcome depends on BLKCNT, but for the count it leaves (R27). -/
theorem RegsOutcome.map_withBlkcnt {r q : Regs} {i : Instr} (o : RegsOutcome r i q) (c : Word) :
    ∃ c', RegsOutcome (withBlkcnt c r) i (withBlkcnt c' q) := by
  cases o with
  | nop => exact ⟨c, .nop⟩
  | beginSeq hb ha => exact ⟨c, .beginSeq hb ha⟩
  | beginKeyLen hb ha hk => exact ⟨c, .beginKeyLen hb ha hk⟩
  | beginIvLen hb ha hk hv => exact ⟨c, .beginIvLen hb ha hk hv⟩
  | opened hb ha hk hv => exact ⟨0, .opened hb ha hk hv⟩
  | noSession hn ha => exact ⟨c, .noSession hn ha⟩
  | blockEnc y ha hm hy => exact ⟨c + 1, .blockEnc y ha hm hy⟩
  | blockDec ha hm => exact ⟨c + 1, .blockDec ha hm⟩
  | finalEnc y ha hm hy => exact ⟨c + 1, .finalEnc y ha hm hy⟩
  | finalBlockLen ha hm hn => exact ⟨c, .finalBlockLen ha hm hn⟩
  | finalPad ha hm hp => exact ⟨c, .finalPad ha hm hp⟩
  | finalDec y k ha hm hy hk => exact ⟨c + 1, .finalDec y k ha hm hy hk⟩
  | abort => exact ⟨0, .abort⟩
  | clear => exact ⟨0, .clear⟩

/-- BLKCNT after every outcome (R27). -/
theorem RegsOutcome.blkcnt {r q : Regs} {i : Instr} (o : RegsOutcome r i q) :
    ((i = .beginEnc ∨ i = .beginDec) ∧ q.status.err = .none → q.blkcnt = 0) ∧
    (i = .abort ∨ i = .clear → q.blkcnt = 0) ∧
    ((i = .block ∨ ∃ n, i = .final n) ∧ q.status.err = .none →
      q.blkcnt.toNat = (r.blkcnt.toNat + 1) % 2 ^ 32) ∧
    (i = .nop ∨ q.status.err ≠ .none → q.blkcnt = r.blkcnt) := by
  cases o with
  | opened hb => cases hb <;> simp
  | beginSeq hb | beginKeyLen hb | beginIvLen hb => cases hb <;> simp
  | noSession hn => cases hn <;> simp
  | clear => simp [Status.reset]
  | _ => simp

/-- Settles O39: the count outcome by outcome, the independence because an outcome stays one with
another count in the registers. -/
theorem blkcntCountsCompletedBlocks : Obligations.BlkcntCountsCompletedBlocks := by
  refine ⟨fun i s t h => ?_, fun v why s t hd h => ?_, fun s off v => ?_⟩
  · have o := exec_regs h
    obtain ⟨hbegin, hzero, hcount, hkeep⟩ := o.blkcnt
    refine ⟨hbegin, hzero, hcount, hkeep, fun c => ?_⟩
    obtain ⟨c', o'⟩ := o.map_withBlkcnt c
    obtain ⟨t', ht', hr⟩ := exec_of_regsOutcome (s := { s with regs := withBlkcnt c s.regs }) o'
    exact ⟨t', ht', by rw [hr]; rfl⟩
  · rw [engineStep_illegal hd h]
    rfl
  · rcases busWrite_cases off v s with ⟨_, e⟩ | ⟨_, e⟩ | ⟨_, e⟩ <;> rw [e]
    · rfl
    · rfl
    · exact (sameSession_storeWord s.regs off v).blkcnt

/-- All that a step does to OVR. -/
theorem step_ovr_cases {s t : State} (h : step s = .next t) :
    t.regs.status.ovr = s.regs.status.ovr ∨
    (t.regs.status.ovr = false ∧
      ((∃ v, EngineTurn s v ∧ decode v = .ok .clear) ∨ ∃ rest, HostTurn s .reset rest)) ∨
    (t.regs.status.ovr = true ∧ busy s.regs = true ∧
      ∃ off v rest, HostTurn s (.write off 4 v) rest) := by
  rcases step_cases h with ⟨v, hp, hl, he⟩ | ⟨e, rest, hi, hl, hh⟩ | ⟨-, -, rfl⟩
  · rcases engineStep_cases he with ⟨_, -, rfl⟩ | ⟨i, u, hd, hx, rfl⟩
    · exact .inl rfl
    · by_cases hc : i = .clear
      · subst hc
        refine .inr (.inl ⟨?_, .inl ⟨v, ⟨hp, hl⟩, hd⟩⟩)
        rw [← Host.Outcome.next.inj hx]
        rfl
      · exact .inl ((exec_regs hx).sameHostSide hc).ovr
  · rcases hostStep_cases hh with ⟨off, -, -, -, rfl⟩ | ⟨off, v, rfl, -, -, rfl⟩ | ⟨-, -, rfl⟩ |
      ⟨-, -, rfl⟩ | ⟨rfl, rfl⟩
    · exact .inl rfl
    · rw [busWrite_ovr]
      cases hb : busy s.regs with
      | true => exact .inr (.inr ⟨by simp [hb], rfl, off, v, rest, hi, hl⟩)
      | false => exact .inl (by simp [hb])
    · exact .inl rfl
    · exact .inl rfl
    · exact .inr (.inl ⟨rfl, .inr ⟨rest, hi, hl⟩⟩)
  · exact .inl rfl

/-- Settles O40: setting and clearing from all that a step does to OVR, the independence because
an outcome stays one with another OVR in the registers. -/
theorem ovrIsStickyUntilClearOrReset : Obligations.OvrIsStickyUntilClearOrReset := by
  refine ⟨fun s off v rest ht h4 h256 hb => ?_, fun s t h hs ht => ?_, fun s t h hs ht => ?_,
    fun i s t b hi h => ?_⟩
  · refine ⟨_, (step_host ht.1 ht.2).trans (hostStep_write h4 h256 v rest s), ?_⟩
    simp [busWrite_ovr, hb]
  · rcases step_ovr_cases h with e | ⟨-, hc⟩ | ⟨e, -⟩
    · simp [e, hs] at ht
    · exact hc
    · simp [e] at ht
  · rcases step_ovr_cases h with e | ⟨e, -⟩ | ⟨-, hc⟩
    · simp [e, hs] at ht
    · simp [e] at ht
    · exact hc
  · exact exec_of_regsOutcome (s := { s with regs := withOvr b s.regs })
      ((exec_regs h).map_withOvr hi b)

end Sys2Proof.Machine
end

section
/-! SUPPORT. STATE and ROUND: no step reads them (O44). -/

namespace Sys2Proof.Machine

/-- The machine with the working registers at `w` and `n`. -/
def withWork (w : StateMatrix) (n : Fin 15) (s : State) : State := { s with work := w, round := n }

theorem sameButWork_iff {s s' : State} : SameButWork s s' ↔ ∃ w n, s' = withWork w n s := by
  constructor
  · intro h
    exact ⟨s'.work, s'.round, by rw [← h]; rfl⟩
  · rintro ⟨w, n, rfl⟩
    rfl

/-- Two outcomes of a step that differ at most in the working registers. -/
inductive SameOutcome :
    Host.Outcome State Fault Refusal → Host.Outcome State Fault Refusal → Prop where
  | next {t t' : State} : SameButWork t t' → SameOutcome (.next t) (.next t')
  | refused (why : Refusal) : SameOutcome (.refused why) (.refused why)

section
variable (w : StateMatrix) (n : Fin 15) (s : State)

@[simp] theorem withWork_regs : (withWork w n s).regs = s.regs := rfl

/-- A command does not read the working registers. -/
theorem exec_withWork (i : Instr) : SameOutcome (exec i s) (exec i (withWork w n s)) := by
  obtain ⟨f, hf | hf⟩ := exec_shape i s.regs
  · rw [hf s rfl, hf (withWork w n s) rfl]
    exact .next rfl
  · rw [hf s rfl, hf (withWork w n s) rfl]
    exact .next rfl

theorem SameButWork.map_complete {t t' : State} (h : SameButWork t t') :
    SameButWork (complete t) (complete t') := by
  obtain ⟨w, n, rfl⟩ := sameButWork_iff.mp h
  rfl

theorem engineStep_withWork (v : Word) :
    SameOutcome (engineStep v s) (engineStep v (withWork w n s)) := by
  unfold engineStep
  split
  · exact .next rfl
  · next i _ =>
    have h := exec_withWork w n s i
    generalize exec i s = a, exec i (withWork w n s) = b at h ⊢
    cases h with
    | next ht => exact .next ht.map_complete
    | refused why => exact .refused why

theorem busWrite_withWork (off : Nat) (v : Word) :
    busWrite off v (withWork w n s) = withWork w n (busWrite off v s) := by
  cases hb : busy s.regs with
  | true =>
    rw [busWrite_busy hb, busWrite_busy (s := withWork w n s) hb]
    rfl
  | false =>
    by_cases hw : winReg off = .cmd
    · rw [busWrite_idle_cmd hb hw, busWrite_idle_cmd (s := withWork w n s) hb hw]
      rfl
    · rw [busWrite_idle_store hb hw, busWrite_idle_store (s := withWork w n s) hb hw]
      rfl

theorem hostStep_withWork (e : HostEvent) (rest : List HostEvent) :
    SameOutcome (hostStep e rest s) (hostStep e rest (withWork w n s)) := by
  cases e with
  | read off bytes =>
    simp only [hostStep]
    split
    · exact .refused _
    · exact .next rfl
  | write off bytes v =>
    simp only [hostStep]
    split
    · exact .refused _
    · exact .next (sameButWork_iff.mpr ⟨w, n, busWrite_withWork w n (takeEvent rest s) off v⟩)
  | wait =>
    simp only [hostStep, readStatus_bit0, withWork_regs]
    split <;> exact .next rfl
  | reset => exact .next rfl

theorem step_withWork : SameOutcome (step s) (step (withWork w n s)) := by
  have ht : turn (withWork w n s) = turn s := rfl
  simp only [step, ht]
  split
  · exact engineStep_withWork w n s _
  · exact hostStep_withWork w n s _ _
  · exact .next rfl

end

/-- Settles O44: a step of either agent reads neither register. -/
theorem workingRegistersHaveNoEffect : Obligations.WorkingRegistersHaveNoEffect := by
  intro s s' h
  obtain ⟨w, n, rfl⟩ := sameButWork_iff.mp h
  have o := step_withWork w n s
  generalize step s = a, step (withWork w n s) = b at o
  cases o with
  | next ht => exact .inl ⟨_, _, rfl, rfl, ht⟩
  | refused why => exact .inr ⟨why, rfl, rfl⟩

end Sys2Proof.Machine
end

section
/-! SUPPORT. The STATUS word, field by field (O45). -/

namespace Sys2Proof.Machine

/-- STATUS as its fields, each with its own width, so that a slice of the word finds its field. -/
theorem statusWord_extractLsb' (r : Regs) (start len : Nat) :
    (statusWord r).extractLsb' start len =
      (r.status.keyw ++ 0#3 ++ r.status.outlen ++ r.status.ivw ++ errCode r.status.err ++ 0#2 ++
        BitVec.ofBool r.status.ovr ++ BitVec.ofBool r.status.last ++ BitVec.ofBool r.status.dv ++
        BitVec.ofBool (modeBit r.status.mode) ++ BitVec.ofBool r.status.active ++
        BitVec.ofBool (busy r) :
          BitVec (8 + 3 + 5 + 4 + 4 + 2 + 1 + 1 + 1 + 1 + 1 + 1)).extractLsb' start len := rfl

theorem getLsbD_of_extractLsb' {x : Word} {k : Nat} {b : Bool}
    (h : x.extractLsb' k 1 = BitVec.ofBool b) : x.getLsbD k = b := by
  simpa using congrArg (BitVec.getLsbD · 0) h

theorem modeBit_iff (m : Mode) : modeBit m = true ↔ m = .dec := by
  cases m <;> simp [modeBit]

/-- Settles O45: each slice of the word lies inside one field. -/
theorem statusWordHasTheSpecLayout : Obligations.StatusWordHasTheSpecLayout := by
  intro r
  have hmode : (statusWord r).getLsbD 2 = modeBit r.status.mode := getLsbD_of_extractLsb' ?mode
  have herr : (statusWord r).extractLsb' 8 4 = errCode r.status.err := ?err
  refine ⟨statusWord_bit0 r, getLsbD_of_extractLsb' ?_, hmode ▸ modeBit_iff _,
    getLsbD_of_extractLsb' ?_, getLsbD_of_extractLsb' ?_, getLsbD_of_extractLsb' ?_, ?_,
    by rw [herr]; cases r.status.err <;> rfl, ?_, ?_, ?_, ?_⟩
  all_goals
    rw [statusWord_extractLsb']
    simp (disch := decide) only [BitVec.extractLsb'_append_eq_of_le,
      BitVec.extractLsb'_append_eq_of_add_le]
    exact BitVec.extractLsb'_eq_self

end Sys2Proof.Machine
end

section
/-! SUPPORT. What the proofs about the register window share: the register at each offset, what a read
and a write there do, and when a step answers a next state. -/

namespace Sys2Proof.Machine

/-! The register map, offset by offset (R52). -/

@[simp] theorem winReg_key : ∀ k : Fin 8, winReg (0x10 + 4 * k.val) = .key k := by decide
@[simp] theorem winReg_iv : ∀ k : Fin 4, winReg (0x30 + 4 * k.val) = .iv k := by decide
@[simp] theorem winReg_din : ∀ k : Fin 4, winReg (0x40 + 4 * k.val) = .din k := by decide
@[simp] theorem winReg_dout : ∀ k : Fin 4, winReg (0x50 + 4 * k.val) = .dout k := by decide
@[simp] theorem winReg_chain : ∀ k : Fin 4, winReg (0x60 + 4 * k.val) = .chain k := by decide

theorem winReg_ne_cmd {off : Nat} (h4 : off % 4 = 0) (h256 : off < 256) (h0 : off ≠ 0) :
    winReg off ≠ .cmd := by
  rcases winReg_cases h4 h256 with ⟨e, -⟩ | ⟨-, hw⟩ | ⟨-, hw⟩ | ⟨_, -, hw⟩ | ⟨_, -, hw⟩ |
    ⟨_, -, hw⟩ | ⟨_, -, hw⟩ | ⟨_, -, hw⟩ | ⟨-, hw⟩
  · exact absurd e h0
  all_goals simp [hw]

/-- STATUS, BLKCNT, DOUT, CHAIN and the reserved offsets take no host write (R57, R60). -/
theorem storeWord_readOnly {off : Nat} (h4 : off % 4 = 0) (h256 : off < 256)
    (h : (0x04 ≤ off ∧ off ≤ 0x0C) ∨ 0x50 ≤ off) (r : Regs) (v : Word) :
    storeWord r off v = r := by
  rcases winReg_cases h4 h256 with ⟨ho, -⟩ | ⟨-, hw⟩ | ⟨-, hw⟩ | ⟨k, ho, -⟩ | ⟨k, ho, -⟩ |
    ⟨k, ho, -⟩ | ⟨k, -, hw⟩ | ⟨k, -, hw⟩ | ⟨-, hw⟩
  -- CMD, KEY, IV and DIN lie outside these offsets.
  any_goals omega
  all_goals simp [storeWord, hw]

/-- CMD, KEY and the reserved offsets read 0 (R28, R22, R60). -/
theorem idleRead_zero {off : Nat} (h4 : off % 4 = 0) (h256 : off < 256)
    (h : off = 0x00 ∨ off = 0x0C ∨ (0x10 ≤ off ∧ off < 0x30) ∨ 0x70 ≤ off) (r : Regs) :
    idleRead r off = 0 := by
  rcases winReg_cases h4 h256 with ⟨-, hw⟩ | ⟨ho, -⟩ | ⟨ho, -⟩ | ⟨k, -, hw⟩ | ⟨k, ho, -⟩ |
    ⟨k, ho, -⟩ | ⟨k, ho, -⟩ | ⟨k, ho, -⟩ | ⟨-, hw⟩
  -- STATUS, BLKCNT, IV, DIN, DOUT and CHAIN lie outside these offsets.
  any_goals omega
  all_goals simp [idleRead, hw]

/-! Accesses of the bus (R51, R55 to R59). -/

theorem accessRefusal_eq_none_iff {off bytes : Nat} :
    accessRefusal off bytes = none ↔ bytes = 4 ∧ off % 4 = 0 ∧ off < 256 := by
  unfold accessRefusal
  split_ifs <;> simp <;> omega

theorem hostStep_read {off : Nat} (h4 : off % 4 = 0) (h256 : off < 256)
    (rest : List HostEvent) (s : State) :
    hostStep (.read off 4) rest s = .next (busRead off (takeEvent rest s)) := by
  simp only [hostStep, accessRefusal_eq_none_iff.mpr ⟨rfl, h4, h256⟩]

/-- WAIT reads STATUS, and stays the next event while BUSY = 1 (R87). -/
theorem hostStep_wait (rest : List HostEvent) (s : State) :
    hostStep .wait rest s =
      .next (busRead 4 (takeEvent (if busy s.regs then .wait :: rest else rest) s)) := by
  simp only [hostStep, readStatus_bit0]
  split <;> rfl

/-- Either access of the bus is refused for the reason its offset and width give (R55). -/
theorem hostStep_refused {e : HostEvent} {off bytes : Nat} {v : Word} {why : Refusal}
    (he : e = .read off bytes ∨ e = .write off bytes v) (hr : accessRefusal off bytes = some why)
    (rest : List HostEvent) (s : State) : hostStep e rest s = .refused why := by
  rcases he with rfl | rfl <;> simp only [hostStep, hr]

/-- A read while BUSY = 0 is no draw. -/
theorem busRead_idle {s : State} (hb : busy s.regs = false) (off : Nat) :
    busRead off s = { s with reads := ⟨off, idleRead s.regs off⟩ :: s.reads } := by
  simp [busRead, readValue, hb]

/-- A host write changes nothing of the machine but the registers, the lag and the draws. -/
theorem busWrite_frame (off : Nat) (v : Word) (s : State) :
    (busWrite off v s).inputs = s.inputs ∧ (busWrite off v s).reads = s.reads ∧
      (busWrite off v s).work = s.work ∧ (busWrite off v s).round = s.round := by
  rcases busWrite_cases off v s with ⟨-, e⟩ | ⟨-, e⟩ | ⟨-, e⟩ <;> rw [e] <;>
    exact ⟨rfl, rfl, rfl, rfl⟩

/-! When a step answers a next state, and what is then still to come. -/

/-- Every command completes (R178). -/
theorem exec_completes (i : Instr) (s : State) : ∃ t, exec i s = .next t := by
  obtain ⟨_, hf | hf⟩ := exec_shape i s.regs <;> exact ⟨_, hf s rfl⟩

theorem engineStep_completes (v : Word) (s : State) : ∃ t, engineStep v s = .next t := by
  unfold engineStep
  split
  · exact ⟨_, rfl⟩
  · next i _ =>
    obtain ⟨t, ht⟩ := exec_completes i s
    exact ⟨complete t, by rw [ht]⟩

theorem hostStep_of_expressible {e : HostEvent} (he : expressible e = true)
    (rest : List HostEvent) (s : State) : ∃ t, hostStep e rest s = .next t := by
  cases e with
  | read off bytes =>
    obtain ⟨rfl, h4, h256⟩ := accessRefusal_eq_none_iff.mp (Option.isNone_iff_eq_none.mp he)
    exact ⟨_, hostStep_read h4 h256 rest s⟩
  | write off bytes v =>
    obtain ⟨rfl, h4, h256⟩ := accessRefusal_eq_none_iff.mp (Option.isNone_iff_eq_none.mp he)
    exact ⟨_, hostStep_write h4 h256 v rest s⟩
  | wait => exact ⟨_, hostStep_wait rest s⟩
  | reset => exact ⟨_, rfl⟩

/-- A step can only stop on an event of the outside world that the interface cannot express. -/
theorem step_of_expressible {s : State}
    (h : ∀ e rest, HostTurn s e rest → expressible e = true) : ∃ t, step s = .next t := by
  unfold step
  split
  · exact engineStep_completes _ s
  · next ht => exact hostStep_of_expressible (h _ _ (turn_host_iff.mp ht)) _ s
  · exact ⟨s, rfl⟩

/-- No step asks for an access that the outside world had not planned. -/
theorem step_inputs_subset {s t : State} (h : step s = .next t) : t.inputs ⊆ s.inputs := by
  rcases step_cases h with ⟨v, -, -, he⟩ | ⟨e, rest, hi, -, hh⟩ | ⟨-, -, rfl⟩
  · rcases engineStep_cases he with ⟨_, -, rfl⟩ | ⟨i, u, -, hx, rfl⟩
    · exact fun _ => id
    · rw [complete_inputs, (exec_world hx).1]
      exact fun _ => id
  · rw [hi]
    rcases hostStep_cases hh with ⟨off, -, -, -, rfl⟩ | ⟨off, v, -, -, -, rfl⟩ | ⟨rfl, -, rfl⟩ |
      ⟨-, -, rfl⟩ | ⟨-, rfl⟩
    · exact List.subset_cons_self e rest
    · rw [(busWrite_frame off v _).1]
      exact List.subset_cons_self e rest
    · exact fun _ => id
    · exact List.subset_cons_self e rest
    · exact List.subset_cons_self e rest
  · exact fun _ => id

end Sys2Proof.Machine
end

section
/-! SUPPORT. The byte order of the registers (O7), and the register window, access by access: idle and
busy, read and written, expressible or not (O46 to O49, O51, O52, O55). -/

namespace Sys2Proof.Machine

/-- Settles O7: the byte of `bytesOf` at 4k+j is byte j of word k, and `wordsOf` undoes `bytesOf`. -/
theorem byteOrderIsBigEndian : Obligations.ByteOrderIsBigEndian := by
  have hdiv (k : Nat) (j : Fin 4) : (4 * k + j.val) / 4 = k := by omega
  have hmod (k : Nat) (j : Fin 4) : (4 * k + j.val) % 4 = j.val := by omega
  refine ⟨fun ws k j => ?_, fun ws k j => ?_, fun b => ⟨wordsOf b, bytesOf_wordsOf b, rfl, ?_⟩⟩
  · rw [bytesOf_getElem]
    simp only [hdiv, hmod, wordByte]
  · rw [keyBytesOf_getElem]
    simp only [hdiv, hmod, wordByte]
  · rintro ws' rfl
    exact (wordsOf_bytesOf ws').symm

/-- Settles O46: the write is the bus's own, and its effect is read off the register at the offset. -/
theorem idleWriteStoresOrIssues : Obligations.IdleWriteStoresOrIssues := by
  intro s off v rest ht hp h4 h256
  have hb : busy (takeEvent rest s).regs = false := busy_of_none hp
  obtain ⟨hinputs, hreads, hwork, hround⟩ := busWrite_frame off v (takeEvent rest s)
  refine ⟨_, (step_host ht.1 ht.2).trans (hostStep_write h4 h256 v rest s), hinputs, hreads, hwork,
    hround, ?_, ?_, ?_, ?_, fun h => ?_⟩
  · rintro rfl
    rw [busWrite_idle_cmd hb rfl]
    rfl
  · rintro k rfl
    simp [busWrite_idle_store hb, storeWord, markKey]
  · rintro k rfl
    simp [busWrite_idle_store hb, storeWord, markIv]
  · rintro k rfl
    simp [busWrite_idle_store hb, storeWord]
  · rw [busWrite_idle_store hb (winReg_ne_cmd h4 h256 (by omega))]
    exact storeWord_readOnly h4 h256 h s.regs v

/-- Settles O47: while BUSY = 1 the bus drops the write. -/
theorem busyWriteIsDropped : Obligations.BusyWriteIsDropped := by
  intro s off v rest ht hb h4 h256
  rw [step_host ht.1 ht.2, hostStep_write h4 h256, busWrite_busy (s := takeEvent rest s) hb]
  rfl

/-- Settles O48: the value is the idle read's, and each offset of the map names its register. -/
theorem idleReadReturnsTheRegisterMap : Obligations.IdleReadReturnsTheRegisterMap := by
  intro s off rest ht hp h4 h256
  have hzero h : idleRead s.regs off = 0 := idleRead_zero h4 h256 h s.regs
  refine ⟨idleRead s.regs off, ?_, fun h => hzero (.inl h), ?_, ?_, fun h => hzero (.inr (.inl h)),
    fun hlo hhi => hzero (.inr (.inr (.inl ⟨hlo, hhi⟩))), fun k => ⟨?_, ?_, ?_, ?_⟩,
    fun h => hzero (.inr (.inr (.inr h)))⟩
  · rw [step_host ht.1 ht.2, hostStep_read h4 h256,
      busRead_idle (s := takeEvent rest s) (busy_of_none hp)]
    rfl
  · rintro rfl
    rfl
  · rintro rfl
    rfl
  all_goals
    rintro rfl
    simp [idleRead]

/-- Settles O49: a read changes no register, and bit 0 of a STATUS read is BUSY. -/
theorem busyReadShowsOnlyBusy : Obligations.BusyReadShowsOnlyBusy := by
  intro s off rest ht hb h4 h256
  refine ⟨_, readValue (takeEvent rest s) off,
    (step_host ht.1 ht.2).trans (hostStep_read h4 h256 rest s), rfl, ?_, rfl, rfl, rfl, rfl⟩
  rintro rfl
  exact (readStatus_bit0 _).trans hb

/-- Settles O51: the bus tests width, alignment and window in that order, and a step whose event can be
expressed is not refused. -/
theorem onlyInexpressibleAccessesAreRefused : Obligations.OnlyInexpressibleAccessesAreRefused := by
  refine ⟨fun s off bytes v rest e ht he => ?_, fun s why hs => ?_⟩
  · have refused {why} (hr : accessRefusal off bytes = some why) : step s = .refused why :=
      (step_host ht.1 ht.2).trans (hostStep_refused he hr rest s)
    refine ⟨fun hw => refused ?_, fun hw ha => refused ?_, fun hw ha ho => refused ?_⟩
    · simp [accessRefusal, hw]
    · simp [accessRefusal, hw, ha]
    · simp [accessRefusal, hw, ha, ho]
  · by_contra hall
    push Not at hall
    obtain ⟨t, ht⟩ := step_of_expressible fun e rest h => by simpa using hall e rest h
    simp [hs] at ht

/-- Settles O52: no step stops on an event that can be expressed, and none adds an event. -/
theorem safeInputsNeverStop : Obligations.SafeInputsNeverStop := by
  intro s hsafe
  obtain ⟨t, ht⟩ := step_of_expressible fun e rest (h : HostTurn s e rest) =>
    hsafe e (by simp [h.1])
  exact ⟨t, ht, fun e he => hsafe e (step_inputs_subset ht he)⟩

/-- Settles O55: with a command pending, a read changes no register and a write is dropped. -/
theorem pendingCommandSeesTheRegistersAsIssued :
    Obligations.PendingCommandSeesTheRegistersAsIssued := by
  intro s t v e rest hp ht he hs
  rw [step_host ht.1 ht.2] at hs
  rcases hostStep_cases hs with ⟨off, -, -, -, rfl⟩ | ⟨off, v', -, -, -, rfl⟩ | ⟨-, -, rfl⟩ |
    ⟨-, hb, -⟩ | ⟨rfl, -⟩
  · rfl
  · rw [busWrite_busy (s := takeEvent rest s) (busy_of_some hp)]
    rfl
  · rfl
  · simp [busy_of_some hp] at hb
  · exact absurd rfl he

end Sys2Proof.Machine
end

section
/-! SUPPORT. KEY and W: no read of a host that issues no command shows them (O54). -/

namespace Sys2Proof.Machine

/-- The registers with KEY at `key` and W at `w`. -/
def withSecret (key : KeyWords) (w : Schedule) (r : Regs) : Regs := { r with key := key, w := w }

theorem sameButSecret_iff {r q : Regs} : SameButSecret r q ↔ ∃ key w, q = withSecret key w r := by
  constructor
  · intro h
    exact ⟨q.key, q.w, by rw [← h]; rfl⟩
  · rintro ⟨key, w, rfl⟩
    rfl

/-- No offset of the window reads KEY or W (R22, R62). -/
theorem SameButSecret.idleRead_eq {r q : Regs} (h : SameButSecret r q) (off : Nat) :
    idleRead q off = idleRead r off := by
  obtain ⟨key, w, rfl⟩ := sameButSecret_iff.mp h
  unfold idleRead
  split <;> rfl

theorem SameButSecret.pending_eq {r q : Regs} (h : SameButSecret r q) : q.pending = r.pending := by
  obtain ⟨key, w, rfl⟩ := sameButSecret_iff.mp h
  rfl

/-- A host write reaches no register from KEY or W but KEY. -/
theorem SameButSecret.storeWord {r q : Regs} (h : SameButSecret r q) (off : Nat) (v : Word) :
    SameButSecret (storeWord r off v) (storeWord q off v) := by
  obtain ⟨key, w, rfl⟩ := sameButSecret_iff.mp h
  unfold Machine.storeWord
  split <;> rfl

/-- Two idle machines that differ at most in KEY, W, STATE, ROUND, the lag and the draws: the same is
asked of both, and both have answered the same. -/
structure SameView (s s' : State) : Prop where
  secret : SameButSecret s.regs s'.regs
  idle : s.regs.pending = none
  inputs : s'.inputs = s.inputs
  reads : s'.reads = s.reads

theorem SameView.takeEvent {s s' : State} (h : SameView s s') (rest : List HostEvent) :
    SameView (takeEvent rest s) (takeEvent rest s') := ⟨h.secret, h.idle, rfl, h.reads⟩

theorem SameView.busy_left {s s' : State} (h : SameView s s') : busy s.regs = false :=
  busy_of_none h.idle

theorem SameView.busy_right {s s' : State} (h : SameView s s') : busy s'.regs = false :=
  busy_of_none (h.secret.pending_eq.trans h.idle)

theorem SameView.busRead {s s' : State} (h : SameView s s') (off : Nat) :
    SameView (busRead off s) (busRead off s') := by
  rw [busRead_idle h.busy_left, busRead_idle h.busy_right, h.secret.idleRead_eq, h.reads]
  exact ⟨h.secret, h.idle, h.inputs, rfl⟩

theorem SameView.busWrite {s s' : State} (h : SameView s s') {off : Nat}
    (hw : winReg off ≠ .cmd) (v : Word) : SameView (busWrite off v s) (busWrite off v s') := by
  rw [busWrite_idle_store h.busy_left hw, busWrite_idle_store h.busy_right hw]
  exact ⟨h.secret.storeWord off v, (storeWord_pending _ _ _).trans h.idle, h.inputs, h.reads⟩

theorem SameView.resetCore {s s' : State} (h : SameView s s') :
    SameView (resetCore s) (resetCore s') := ⟨rfl, rfl, h.inputs, h.reads⟩

theorem SameView.hostStep {s s' t : State} (h : SameView s s') {e : HostEvent}
    {rest : List HostEvent} (hcmd : ∀ off bytes v, e = .write off bytes v → off ≠ 0)
    (hs : hostStep e rest s = .next t) : ∃ t', hostStep e rest s' = .next t' ∧ SameView t t' := by
  have hrest := h.takeEvent rest
  rcases hostStep_cases hs with ⟨off, rfl, h4, h256, rfl⟩ | ⟨off, v, rfl, h4, h256, rfl⟩ |
    ⟨-, hb, -⟩ | ⟨rfl, -, rfl⟩ | ⟨rfl, rfl⟩
  · exact ⟨_, hostStep_read h4 h256 rest s', hrest.busRead off⟩
  · exact ⟨_, hostStep_write h4 h256 v rest s',
      hrest.busWrite (winReg_ne_cmd h4 h256 (hcmd off 4 v rfl)) v⟩
  · simp [h.busy_left] at hb
  · exact ⟨_, by rw [hostStep_wait, h.busy_right]; rfl, hrest.busRead 4⟩
  · exact ⟨_, rfl, hrest.resetCore⟩

theorem SameView.step {s s' t : State} (h : SameView s s')
    (hcmd : ∀ off bytes v, HostEvent.write off bytes v ∈ s.inputs → off ≠ 0)
    (hs : step s = .next t) : ∃ t', step s' = .next t' ∧ SameView t t' := by
  have hidle' : s'.regs.pending = none := h.secret.pending_eq.trans h.idle
  rcases step_cases hs with ⟨v, hp, -, -⟩ | ⟨e, rest, hi, -, hh⟩ | ⟨-, hi, rfl⟩
  · simp [h.idle] at hp
  · rw [step_host (h.inputs.trans hi) (.inl hidle')]
    refine h.hostStep (fun off bytes v he => hcmd off bytes v ?_) hh
    simp [hi, he]
  · exact ⟨s', by simp only [Machine.step, turn_idle_iff.mpr ⟨hidle', h.inputs.trans hi⟩], h⟩

/-- Settles O54, by induction on the number of steps: each step keeps the view, and no step adds an
access. -/
theorem keyAndScheduleAreNotReadable : Obligations.KeyAndScheduleAreNotReadable := by
  intro n s s' hsecret hidle hinputs hreads hsafe hcmd
  have hview : SameView s s' := ⟨hsecret, hidle, hinputs, hreads⟩
  clear hsecret hidle hinputs hreads
  induction n generalizing s s' with
  | zero => exact ⟨s, s', rfl, rfl, hview.reads, hview.secret⟩
  | succ n ih =>
    obtain ⟨t, ht, hsafe'⟩ := safeInputsNeverStop s hsafe
    obtain ⟨t', ht', hview'⟩ := hview.step hcmd ht
    rw [run_succ ht, run_succ ht']
    exact ih t t' hsafe' (fun off bytes v hm => hcmd off bytes v (step_inputs_subset ht hm)) hview'

end Sys2Proof.Machine
end

section
/-! SUPPORT. The command word: its fields, the words that decode to a command, and the rows of the
opcode table they match (O1 to O5); and the WAIT of a host program (O50). -/

namespace Sys2Proof

/-! The fields of a word and of a command's word (R80, R82). -/

/-- A command's word as its fields, each with its own width, so that a slice of the word finds its
field. -/
theorem encode_extractLsb' (i : Instr) (start len : Nat) :
    (encode i).extractLsb' start len =
      (0#20 ++ i.len ++ 0#4 ++ i.opcode : BitVec (20 + 4 + 4 + 4)).extractLsb' start len := rfl

@[simp] theorem fieldOp_encode (i : Instr) : fieldOp (encode i) = i.opcode := by
  rw [fieldOp, encode_extractLsb', BitVec.extractLsb'_append_eq_right]

@[simp] theorem fieldRsv0_encode (i : Instr) : fieldRsv0 (encode i) = 0 := by
  rw [fieldRsv0, encode_extractLsb', BitVec.extractLsb'_append_eq_of_le (by decide),
    BitVec.extractLsb'_append_eq_right]
  rfl

@[simp] theorem fieldLen_encode (i : Instr) : fieldLen (encode i) = i.len := by
  rw [fieldLen, encode_extractLsb', BitVec.extractLsb'_append_eq_of_le (by decide),
    BitVec.extractLsb'_append_eq_of_le (by decide), BitVec.extractLsb'_append_eq_right]

@[simp] theorem fieldRsv1_encode (i : Instr) : fieldRsv1 (encode i) = 0 := by
  rw [fieldRsv1, encode_extractLsb', BitVec.extractLsb'_append_eq_of_le (by decide),
    BitVec.extractLsb'_append_eq_of_le (by decide), BitVec.extractLsb'_append_eq_left]
  rfl

/-- A word is its four fields, RSV1 first. -/
theorem fields_append (v : Word) : fieldRsv1 v ++ fieldLen v ++ fieldRsv0 v ++ fieldOp v = v := by
  unfold fieldRsv1 fieldLen fieldRsv0 fieldOp
  rw [BitVec.extractLsb'_append_extractLsb'_eq_extractLsb' (by rfl : 12 = 8 + 4),
    BitVec.extractLsb'_append_extractLsb'_eq_extractLsb' (by rfl : 8 = 4 + 4),
    BitVec.extractLsb'_append_extractLsb'_eq_extractLsb' (by rfl : 4 = 0 + 4)]
  exact BitVec.extractLsb'_eq_self

theorem encode_eq_of_fields {v : Word} {i : Instr} (hrsv1 : fieldRsv1 v = 0)
    (hlen : fieldLen v = i.len) (hrsv0 : fieldRsv0 v = 0) (hop : fieldOp v = i.opcode) :
    encode i = v := by
  rw [← fields_append v, hrsv1, hlen, hrsv0, hop]
  rfl

theorem operandLen_encode_final {n : Nat} (h : n ≤ 15) : operandLen (encode (.final n)) = n := by
  simp only [operandLen, fieldLen_encode, Instr.len, BitVec.toNat_ofNat]
  omega

theorem operandLen_le (v : Word) : operandLen v ≤ 15 := Nat.le_of_lt_succ (fieldLen v).isLt

theorem operandLen_eq_zero_iff (v : Word) : operandLen v = 0 ↔ fieldLen v = 0 :=
  BitVec.toNat_eq_nat.trans (by simp)

/-! Decoder and encoder (R83). -/

/-- What a word that decodes to a command has in its fields. -/
theorem fields_of_decode {v : Word} {i : Instr} (h : decode v = .ok i) :
    fieldRsv1 v = 0 ∧ fieldLen v = i.len ∧ fieldRsv0 v = 0 ∧ fieldOp v = i.opcode ∧
      i.wf = true := by
  unfold decode at h
  split_ifs at h with hrsv hop hlen
  obtain ⟨hrsv1, hrsv0⟩ : fieldRsv1 v = 0 ∧ fieldRsv0 v = 0 := by simpa using hrsv
  have hfinal : fieldOp v ≠ 4 → fieldLen v = 0 := by simpa [operandLen_eq_zero_iff] using hlen
  have hvalue {k : Nat} (hk : (fieldOp v).toNat = k) : fieldOp v = BitVec.ofNat 4 k :=
    (BitVec.toNat_eq_nat.mp hk).2
  split at h <;> cases h
  case h_5 ho =>
    exact ⟨hrsv1, by simp [Instr.len, operandLen], hrsv0, hvalue ho,
      decide_eq_true (operandLen_le v)⟩
  case h_7 =>
    have ho : fieldOp v = 6 := hvalue (k := 6) (by grind)
    exact ⟨hrsv1, hfinal (by simp [ho]), hrsv0, ho, rfl⟩
  case h_1 ho | h_2 ho | h_3 ho | h_4 ho | h_6 ho =>
    exact ⟨hrsv1, hfinal (by simp [hvalue ho]), hrsv0, hvalue ho, rfl⟩

/-- Settles O2: the decoder reads back the fields that the encoder wrote. -/
theorem decodeUndoesEncode : Obligations.DecodeUndoesEncode := by
  intro i hwf
  cases i with
  | final n =>
    have hn : operandLen (encode (.final n)) = n := operandLen_encode_final (of_decide_eq_true hwf)
    simp [decode, hn, Instr.opcode]
  | _ => simp [decode, operandLen, Instr.opcode, Instr.len]

/-- Settles O3: the fields of a word that decodes are those of its command's word, and a word is its
fields. -/
theorem encodeUndoesDecode : Obligations.EncodeUndoesDecode := by
  intro v i h
  obtain ⟨hrsv1, hlen, hrsv0, hop, hwf⟩ := fields_of_decode h
  exact ⟨hwf, encode_eq_of_fields hrsv1 hlen hrsv0 hop⟩

/-- Settles O1: each word is the encoding of its command. -/
theorem wordsOfTheOpcodeMapDecode : Obligations.WordsOfTheOpcodeMapDecode :=
  ⟨decodeUndoesEncode .nop rfl, decodeUndoesEncode .beginEnc rfl, decodeUndoesEncode .beginDec rfl,
    decodeUndoesEncode .block rfl, decodeUndoesEncode (.final 5) rfl,
    decodeUndoesEncode (.final 15) rfl, decodeUndoesEncode .abort rfl,
    decodeUndoesEncode .clear rfl⟩

/-! The opcode table (R82). -/

/-- The row of each command's mnemonic is the only row that the command's word matches. -/
theorem matchesWord_encode {i : Instr} (hwf : i.wf = true) :
    ∀ row ∈ opcodeTable, row.matchesWord (encode i) = (row.mnemonic == i.mnemonic) := by
  cases i with
  | nop => exact Laws.MatchesOwnRow.nop hwf
  | beginEnc => exact Laws.MatchesOwnRow.beginEnc hwf
  | beginDec => exact Laws.MatchesOwnRow.beginDec hwf
  | block => exact Laws.MatchesOwnRow.block hwf
  | final n => exact Laws.MatchesOwnRow.final n hwf
  | abort => exact Laws.MatchesOwnRow.abort hwf
  | clear => exact Laws.MatchesOwnRow.clear hwf

theorem rows_of_mnemonic (i : Instr) :
    (opcodeTable.filter fun row => row.mnemonic == i.mnemonic).map OpcodeRow.mnemonic =
      [i.mnemonic] := by
  cases i <;> rfl

/-- A row whose mask is full matches one word (R82). -/
theorem matchesWord_full {name : String} {m v : Word}
    (h : OpcodeRow.matchesWord ⟨name, m, 0xFFFFFFFF⟩ v = true) : v = m := by
  have hm : v &&& BitVec.allOnes 32 = m := beq_iff_eq.mp h
  rwa [BitVec.and_allOnes] at hm

/-- The row of FINAL leaves LEN free (R82). -/
theorem matchesWord_final {v : Word}
    (h : OpcodeRow.matchesWord ⟨"FINAL", 0x00000004, 0xFFFFF0FF⟩ v = true) :
    encode (.final (operandLen v)) = v := by
  have hm : v &&& 0xFFFFF0FF = 4 := beq_iff_eq.mp h
  have hslice (start len : Nat) :
      v.extractLsb' start len &&& (0xFFFFF0FF : Word).extractLsb' start len =
        (4 : Word).extractLsb' start len := by
    rw [← BitVec.extractLsb'_and, hm]
  apply encode_eq_of_fields
  · exact BitVec.and_allOnes.symm.trans (hslice 12 20)
  · simp [Instr.len, operandLen]
  · exact BitVec.and_allOnes.symm.trans (hslice 4 4)
  · exact BitVec.and_allOnes.symm.trans (hslice 0 4)

/-- A word that matches a row is the word of a command. -/
theorem exists_encode_of_matchesWord {row : OpcodeRow} (hrow : row ∈ opcodeTable) {v : Word}
    (h : row.matchesWord v = true) : ∃ i : Instr, i.wf = true ∧ encode i = v := by
  simp only [opcodeTable, List.mem_cons, List.not_mem_nil, or_false] at hrow
  rcases hrow with rfl | rfl | rfl | rfl | rfl | rfl | rfl
  · exact ⟨.nop, rfl, (matchesWord_full h).symm⟩
  · exact ⟨.beginEnc, rfl, (matchesWord_full h).symm⟩
  · exact ⟨.beginDec, rfl, (matchesWord_full h).symm⟩
  · exact ⟨.block, rfl, (matchesWord_full h).symm⟩
  · exact ⟨.final (operandLen v), decide_eq_true (operandLen_le v), matchesWord_final h⟩
  · exact ⟨.abort, rfl, (matchesWord_full h).symm⟩
  · exact ⟨.clear, rfl, (matchesWord_full h).symm⟩

/-- Settles O4: a legal word is its command's word, which matches its own row alone; a word that
matches a row is a command's word, and so decodes. -/
theorem legalWordsMatchExactlyOneRow : Obligations.LegalWordsMatchExactlyOneRow := by
  refine fun v => ⟨fun i hd => ?_, fun why hd => ?_⟩
  · obtain ⟨hwf, rfl⟩ := encodeUndoesDecode v i hd
    rw [List.filter_congr (matchesWord_encode hwf), rows_of_mnemonic]
  · refine List.filter_eq_nil_iff.mpr fun row hrow hm => ?_
    obtain ⟨i, hwf, rfl⟩ := exists_encode_of_matchesWord hrow hm
    simp [decodeUndoesEncode i hwf] at hd

/-! Illegal words (R84, R225). -/

theorem decode_error_iff (v : Word) :
    (∃ why, decode v = .error why) ↔
      fieldRsv1 v ≠ 0 ∨ fieldRsv0 v ≠ 0 ∨ 7 ≤ (fieldOp v).toNat ∨
        (fieldLen v ≠ 0 ∧ fieldOp v ≠ 4) := by
  constructor
  · rintro ⟨why, h⟩
    unfold decode at h
    split_ifs at h with hrsv hop hlen
    · exact hrsv.imp_right .inl
    · exact .inr (.inr (.inl hop))
    · exact .inr (.inr (.inr ⟨mt (operandLen_eq_zero_iff v).mpr hlen.2, hlen.1⟩))
    · split at h <;> cases h
  · intro h
    cases hd : decode v with
    | error why => exact ⟨why, rfl⟩
    | ok i =>
      obtain ⟨hrsv1, hlen, hrsv0, hop, -⟩ := fields_of_decode hd
      rw [hrsv1, hrsv0, hlen, hop] at h
      cases i <;> simp [Instr.len, Instr.opcode] at h

end Sys2Proof

namespace Sys2Proof.Machine

/-- Settles O5: the tests of the decoder are R84's, and the engine completes a refused word with
`raiseError .cmd`, which sets ERR alone. -/
theorem illegalWordsOnlySetErrCmd : Obligations.IllegalWordsOnlySetErrCmd := by
  refine fun v => ⟨decode_error_iff v, fun why s hd ht => ?_⟩
  obtain ⟨t, he⟩ := engineStep_completes v s
  rw [step_engine ht.1 ht.2, he, engineStep_illegal hd he]
  rfl

/-- Settles O50: WAIT is a read of STATUS, and stays the next event while that read shows BUSY. -/
theorem waitReadsStatusUntilIdle : Obligations.WaitReadsStatusUntilIdle := by
  intro s rest ht
  refine ⟨_, _, (step_host ht.1 ht.2).trans (hostStep_wait rest s), rfl, rfl,
    readStatus_bit0 _, fun hb => ⟨?_, by simp [hb]⟩, fun hb => by simp [hb]⟩
  have hidle : idleRead s.regs 4 = statusWord s.regs := rfl
  simp [readValue, hb, hidle]

end Sys2Proof.Machine
end

section
/-! SUPPORT. The key schedule: what RotWord, SubWord and the round constant do to the bytes of a word,
and the recurrence that the expansion loop leaves behind (O14, O15). -/

namespace Sys2Proof.Machine

/-! The bytes of a word built from bytes, and the word operations of R101 to R103 on them. -/

theorem wordByte_wordOf (b : Fin 4 → Byte) (j : Fin 4) :
    wordByte (wordOf (b 0) (b 1) (b 2) (b 3)) j = b j := by
  match j with
  | 0 => exact wordByte_wordOf_zero _ _ _ _
  | 1 => exact wordByte_wordOf_one _ _ _ _
  | 2 => exact wordByte_wordOf_two _ _ _ _
  | 3 => exact wordByte_wordOf_three _ _ _ _

theorem wordByte_rotWord (w : Word) (j : Fin 4) : wordByte (rotWord w) j = wordByte w (j + 1) :=
  wordByte_wordOf (fun k => wordByte w (k + 1)) j

theorem wordByte_subWord (w : Word) (j : Fin 4) : wordByte (subWord w) j = sbox (wordByte w j) :=
  wordByte_wordOf (fun k => sbox (wordByte w k)) j

theorem rotWord_four_times (w : Word) : rotWord (rotWord (rotWord (rotWord w))) = w := by
  refine word_ext fun j => ?_
  have hj : j + 1 + 1 + 1 + 1 = j := by omega
  simp only [wordByte_rotWord, hj]

/-- The last three bytes of the word move up by eight bits, and the first comes round to the bottom. -/
theorem rotWord_eq_rotateLeft (w : Word) : rotWord w = w.rotateLeft 8 := by
  refine BitVec.eq_of_getLsbD_eq fun i hi => ?_
  rw [rotWord, wordOf_getLsbD, BitVec.getLsbD_rotateLeft]
  split_ifs with h0 h1 h2
  · rw [wordByte_getLsbD _ _ h0]; simp [h0]
  · rw [wordByte_getLsbD _ _ h1]; simp [h0, hi]
  · rw [wordByte_getLsbD _ _ h2]
    have e : 8 + (i - 8 - 8) = i - 8 := by omega
    simp [h0, hi, e]
  · rw [wordByte_getLsbD _ _ (by omega)]
    have e : 16 + (i - 8 - 8 - 8) = i - 8 := by omega
    simp [h0, hi, e]

theorem append_zero_eq_wordOf (b : Byte) : (b ++ 0#24 : Word) = wordOf b 0 0 0 := by
  refine BitVec.eq_of_toNat_eq ?_
  change (b ++ 0#24 : BitVec (8 + 24)).toNat =
    (b ++ 0#8 ++ 0#8 ++ 0#8 : BitVec (8 + 8 + 8 + 8)).toNat
  simp only [BitVec.toNat_append, BitVec.toNat_ofNat, Nat.zero_mod, Nat.or_zero,
    ← Nat.shiftLeft_add]

/-- The XOR into the first byte is one of whole words, with the constant in the top eight bits. -/
theorem xorFirstByte_eq_xor (w : Word) (b : Byte) : xorFirstByte w b = w ^^^ (b ++ 0#24) := by
  refine word_ext fun j => ?_
  rw [wordByte_xor, append_zero_eq_wordOf, xorFirstByte]
  match j with
  | 0 => rw [wordByte_wordOf_zero, wordByte_wordOf_zero]
  | 1 | 2 | 3 => simp

/-! The expansion loop (R105): iteration n writes word n + 8 and no other. -/

theorem expandStep_getElem_self (n : Nat) (hn : n < 52) (w : Schedule) :
    (expandStep n hn w)[n + 8] = scheduleTemp (n + 8) w[n + 7] ^^^ w[n] := by
  simp [expandStep]

theorem expandStep_getElem_ne {n : Nat} (hn : n < 52) (w : Schedule) {i : Nat} (hi : i < 60)
    (hne : n + 8 ≠ i) : (expandStep n hn w)[i] = w[i] := by
  simp [expandStep, hne]

/-- Every word the loop has written satisfies its recurrence: the last iteration by what it writes, the
earlier ones because it leaves their words alone. -/
theorem expandLoop_recurrence (n : Nat) (hn : n ≤ 52) (w : Schedule) (k : Nat) (hk : k < n) :
    (expandLoop n hn w)[k + 8] =
      scheduleTemp (k + 8) (expandLoop n hn w)[k + 7] ^^^ (expandLoop n hn w)[k] := by
  induction n with
  | zero => omega
  | succ n ih =>
    rw [expandLoop, expandStep_getElem_ne (i := k + 7) hn _ _ (by omega),
      expandStep_getElem_ne (i := k) hn _ _ (by omega)]
    rcases Nat.lt_succ_iff_lt_or_eq.mp hk with hlt | rfl
    · rw [expandStep_getElem_ne _ _ _ (by omega)]
      exact ih _ hlt
    · exact expandStep_getElem_self _ _ _

theorem expand_recurrence (key : KeyBytes) (k : Nat) (hk : k < 52) :
    (expand key)[k + 8] = scheduleTemp (k + 8) (expand key)[k + 7] ^^^ (expand key)[k] := by
  unfold expand
  exact expandLoop_recurrence 52 _ _ k hk

/-- The same at i = k + 8, as R105 counts. -/
theorem expand_getElem (key : KeyBytes) (i : Nat) (h8 : 8 ≤ i) (h60 : i < 60) :
    (expand key)[i] =
      scheduleTemp i ((expand key)[i - 1]'(by omega)) ^^^ (expand key)[i - 8]'(by omega) := by
  obtain ⟨k, rfl⟩ := Nat.exists_eq_add_of_le' h8
  exact expand_recurrence key k (by omega)

/-! The first eight words (R104), and the round keys they make up (R107). -/

theorem wordByte_expand (key : KeyBytes) (i : Nat) (hi : i < 8) (j : Fin 4) :
    wordByte (expand key)[i] j = key[4 * i + j.val] := by
  rw [expand_first_words key i hi, keyWordsOf_getElem]
  exact wordByte_wordOf (fun j => key[4 * i + j.val]) j

theorem roundKey_getElem (w : Schedule) (r : Fin 15) (j : Nat) (hj : j < 16) :
    (roundKey w r)[j] =
      wordByte (w[4 * r.val + j / 4]'(by omega)) ⟨j % 4, Nat.mod_lt _ (by decide)⟩ := by
  simp [roundKey, roundKeyWord, bytesOf_getElem]

theorem roundKey_expand_of_lt_two (key : KeyBytes) (r : Fin 15) (hr : r.val < 2) (j : Fin 16) :
    (roundKey (expand key) r)[j.val] = key[16 * r.val + j.val] := by
  rw [roundKey_getElem, wordByte_expand key _ (by omega)]
  congr 1; simp only; omega

/-- Settles O14: byte j of the rotated word is byte j + 1, and of the substituted word the S-box at byte
j. -/
theorem rotWordAndSubWordActOnBytes : Obligations.RotWordAndSubWordActOnBytes :=
  fun w => ⟨rotWord_eq_rotateLeft w, rotWord_four_times w, wordByte_subWord w⟩

/-- Settles O15: the first words are the key's, and the loop leaves its recurrence behind in every later
word, whose branch i mod 8 decides. -/
theorem expandFollowsTheRecurrence : Obligations.ExpandFollowsTheRecurrence := by
  refine ⟨by decide, fun key => ⟨fun i j => wordByte_expand key i.val i.isLt j, fun j => ⟨?_, ?_⟩,
    fun i hi => ⟨fun h0 => ?_, fun h4 => ?_, fun h0 h4 => ?_⟩⟩⟩
  · simpa using roundKey_expand_of_lt_two key 0 (by decide) j
  · exact roundKey_expand_of_lt_two key 1 (by decide) j
  · rw [expand_getElem key i hi.1 hi.2, scheduleTemp, if_pos h0, xorFirstByte_eq_xor]
  · rw [expand_getElem key i hi.1 hi.2, scheduleTemp, if_neg (by omega), if_pos h4]
  · rw [expand_getElem key i hi.1 hi.2, scheduleTemp, if_neg h0, if_neg h4]

end Sys2Proof.Machine
end

section
/-! SUPPORT. The round transforms that no product enters (spec/41_datapath.md): each entry by entry, its
inverse, and the S-box as the affine image of the inverse in the field (O8, O10, O11, O13). -/

namespace Sys2Proof.Machine

/-! The entries of the transforms, and of a state laid out as a block (R11, R126 to R141). -/

theorem fromState_getElem_entry (s : StateMatrix) (r c : Fin 4) :
    (fromState s)[r.val + 4 * c.val] = entry s r c := by
  rw [fromState_getElem]
  congr 1 <;> (ext; simp only; omega)

@[simp] theorem entry_subBytes (s : StateMatrix) (r c : Fin 4) :
    entry (subBytes s) r c = sbox (entry s r c) := entry_matrixOf _ r c

@[simp] theorem entry_invSubBytes (s : StateMatrix) (r c : Fin 4) :
    entry (invSubBytes s) r c = invSbox (entry s r c) := entry_matrixOf _ r c

@[simp] theorem entry_shiftRows (s : StateMatrix) (r c : Fin 4) :
    entry (shiftRows s) r c = entry s r (c + r) := entry_matrixOf _ r c

@[simp] theorem entry_invShiftRows (s : StateMatrix) (r c : Fin 4) :
    entry (invShiftRows s) r c = entry s r (c - r) := entry_matrixOf _ r c

@[simp] theorem entry_addRoundKey (w : Schedule) (n : Fin 15) (s : StateMatrix) (r c : Fin 4) :
    entry (addRoundKey w n s) r c = entry s r c ^^^ wordByte (roundKeyWord w n c) r :=
  entry_matrixOf _ r c

/-! ShiftRows (R128, R129). -/

@[simp] theorem invShiftRows_shiftRows (s : StateMatrix) : invShiftRows (shiftRows s) = s :=
  matrix_ext fun r c => by rw [entry_invShiftRows, entry_shiftRows, sub_add_cancel]

@[simp] theorem shiftRows_invShiftRows (s : StateMatrix) : shiftRows (invShiftRows s) = s :=
  matrix_ext fun r c => by rw [entry_shiftRows, entry_invShiftRows, add_sub_cancel_right]

/-- Settles O10: the index arithmetic of a row is that of `Fin 4`, where adding and taking away r undo
each other. -/
theorem shiftRowsRotatesRows : Obligations.ShiftRowsRotatesRows := by
  refine ⟨fun b r c => ⟨?_, ?_⟩, fun s => ⟨invShiftRows_shiftRows s, shiftRows_invShiftRows s⟩⟩
  · rw [fromState_getElem_entry, entry_shiftRows, entry_toState]
    simp only [Fin.val_add]
  · rw [fromState_getElem_entry, entry_invShiftRows, entry_toState]
    simp only [Fin.val_sub, Nat.add_comm]

/-! AddRoundKey (R140, R141). -/

@[simp] theorem addRoundKey_addRoundKey (w : Schedule) (n : Fin 15) (s : StateMatrix) :
    addRoundKey w n (addRoundKey w n s) = s :=
  matrix_ext fun r c => by simp only [entry_addRoundKey, xor_cancel_right]

theorem fromState_addRoundKey (w : Schedule) (n : Fin 15) (s : StateMatrix) :
    fromState (addRoundKey w n s) = xorBlock (fromState s) (roundKey w n) := by
  ext i hi : 1
  rw [xorBlock_getElem _ _ _ hi, fromState_getElem _ _ hi, fromState_getElem _ _ hi,
    roundKey_getElem _ _ _ hi, entry_addRoundKey, roundKeyWord]

/-- Settles O13: each byte of the block meets the byte of its column's schedule word, and XOR with the
same byte twice is the identity. -/
theorem addRoundKeyIsBytewiseXor : Obligations.AddRoundKeyIsBytewiseXor := by
  refine fun w n s => ⟨fun r c => ?_, fromState_addRoundKey w n s, addRoundKey_addRoundKey w n s⟩
  rw [fromState_getElem_entry, fromState_getElem_entry, entry_addRoundKey, wordByte, roundKeyWord]

/-! The S-box and its inverse (R121, R122), and SubBytes (R126, R127). -/

@[simp] theorem invSbox_sbox (a : Byte) : invSbox (sbox a) = a := by
  revert a; decide +kernel

theorem sbox_injective : Function.Injective sbox :=
  Function.LeftInverse.injective invSbox_sbox

@[simp] theorem sbox_invSbox (a : Byte) : sbox (invSbox a) = a :=
  Function.LeftInverse.rightInverse_of_surjective invSbox_sbox
    (Finite.surjective_of_injective sbox_injective) a

/-- The affine map of R121. -/
def affine (b : Byte) : Byte :=
  b ^^^ rotl8 b 1 ^^^ rotl8 b 2 ^^^ rotl8 b 3 ^^^ rotl8 b 4 ^^^ 0x63

/-- The inverse of the affine map: it leads from S[a] back to the field inverse of a. -/
def unaffine (s : Byte) : Byte := rotl8 s 1 ^^^ rotl8 s 3 ^^^ rotl8 s 6 ^^^ 0x05

theorem affine_unaffine (s : Byte) : affine (unaffine s) = s := by
  revert s; decide +kernel

theorem gmul_unaffine_sbox (a : Byte) (ha : a ≠ 0) : gmul a (unaffine (sbox a)) = 1 := by
  revert a; decide +kernel

theorem sbox_ne_self (a : Byte) : sbox a ≠ a := by
  revert a; decide +kernel

/-- Settles O8: the inverse of a is what the affine map, undone, makes of S[a]. -/
theorem sBoxIsAffineImageOfInverse : Obligations.SBoxIsAffineImageOfInverse :=
  ⟨by decide +kernel,
    fun a ha => ⟨unaffine (sbox a), gmul_unaffine_sbox a ha, (affine_unaffine (sbox a)).symm⟩,
    fun _ _ h => sbox_injective h, sbox_ne_self, fun a => ⟨invSbox_sbox a, sbox_invSbox a⟩⟩

@[simp] theorem invSubBytes_subBytes (s : StateMatrix) : invSubBytes (subBytes s) = s :=
  matrix_ext fun r c => by rw [entry_invSubBytes, entry_subBytes, invSbox_sbox]

@[simp] theorem subBytes_invSubBytes (s : StateMatrix) : subBytes (invSubBytes s) = s :=
  matrix_ext fun r c => by rw [entry_subBytes, entry_invSubBytes, sbox_invSbox]

/-- Settles O11: both act entry by entry, and on one entry each undoes the other. -/
theorem subBytesIsPerByteAndInvertible : Obligations.SubBytesIsPerByteAndInvertible :=
  ⟨fun s r c => ⟨entry_subBytes s r c, entry_invSubBytes s r c⟩,
    fun s => ⟨invSubBytes_subBytes s, subBytes_invSubBytes s⟩⟩

end Sys2Proof.Machine
end

section
/-! SUPPORT. The product of the field as the remainder of a polynomial product (R123): the division is
linear, and it turns multiplication by x into `xtime` (O9). -/

namespace Sys2Proof.Machine

/-- Step i of the division: the term of degree 15 − i is taken away (R123). -/
def reduceAt (q : BitVec 16) (i : Nat) : BitVec 16 :=
  if q.getLsbD (15 - i) then q ^^^ (0x11B#16 <<< (7 - i)) else q

theorem polyMod_eq (p : BitVec 16) :
    polyMod p = ((List.range 8).foldl reduceAt p).setWidth 8 := rfl

theorem reduceAt_of_false {q : BitVec 16} {i : Nat} (h : q.getLsbD (15 - i) = false) :
    reduceAt q i = q := if_neg (by simp [h])

theorem reduceAt_xor (p q : BitVec 16) (i : Nat) :
    reduceAt (p ^^^ q) i = reduceAt p i ^^^ reduceAt q i := by
  unfold reduceAt
  rw [BitVec.getLsbD_xor]
  generalize 0x11B#16 <<< (7 - i) = m
  cases p.getLsbD (15 - i) <;> cases q.getLsbD (15 - i)
  · rfl
  · exact BitVec.xor_assoc p q m
  · change p ^^^ q ^^^ m = p ^^^ m ^^^ q
    ac_rfl
  · have hcancel : p ^^^ m ^^^ (q ^^^ m) = p ^^^ q ^^^ m ^^^ m := by ac_rfl
    exact (xor_cancel_right _ m).symm.trans hcancel.symm

theorem polyMod_xor (p q : BitVec 16) : polyMod (p ^^^ q) = polyMod p ^^^ polyMod q := by
  rw [polyMod_eq, List.foldl_hom₂ (List.range 8) (· ^^^ ·) reduceAt reduceAt reduceAt p q
    fun a b i => (reduceAt_xor a b i).symm]
  exact BitVec.setWidth_xor

/-- Below degree 8 there is nothing to take away. -/
theorem polyMod_setWidth (a : Byte) : polyMod (a.setWidth 16) = a := by
  have hstep (i : Nat) (hi : i < 8) : reduceAt (a.setWidth 16) i = a.setWidth 16 := by
    refine reduceAt_of_false ?_
    rw [BitVec.getLsbD_setWidth, BitVec.getLsbD_of_ge a _ (by omega), Bool.and_false]
  simp [polyMod_eq, List.range, List.range.loop, hstep]

/-- One division step of `q * x` is the next step of `q`, times x. -/
theorem reduceAt_shiftLeft (q : BitVec 16) (i : Nat) (hi : i < 7) :
    reduceAt (q <<< 1) i = reduceAt q (i + 1) <<< 1 := by
  have hbit : (q <<< 1).getLsbD (15 - i) = q.getLsbD (15 - (i + 1)) := by
    rw [BitVec.getLsbD_shiftLeft, Nat.sub_sub]
    simp; omega
  have hm : 0x11B#16 <<< (7 - i) = 0x11B#16 <<< (7 - (i + 1)) <<< 1 := by
    rw [← BitVec.shiftLeft_add]; congr 1; omega
  unfold reduceAt
  rw [hbit, hm, ← BitVec.shiftLeft_xor_distrib, ← apply_ite (fun p : BitVec 16 => p <<< 1)]

/-- The last step, which takes away the term of degree 8, is the reduction in `xtime`. -/
theorem setWidth_reduceAt_shiftLeft (q : BitVec 16) :
    (reduceAt (q <<< 1) 7).setWidth 8 = xtime (q.setWidth 8) := by
  have hshift : (q <<< 1).setWidth 8 = q.setWidth 8 <<< 1 := by
    ext i hi
    simp
  have hbit : (q <<< 1).getLsbD (15 - 7) = (q.setWidth 8).getLsbD 7 := by
    simp
  rw [reduceAt, xtime, hbit, apply_ite (BitVec.setWidth 8), BitVec.setWidth_xor, hshift]
  cases (q.setWidth 8).getLsbD 7
  · exact BitVec.xor_zero.symm
  · rfl

theorem polyMod_shiftLeft (p : BitVec 16) (hp : p.getLsbD 15 = false) :
    polyMod (p <<< 1) = xtime (polyMod p) := by
  have h0 : reduceAt p 0 = p := reduceAt_of_false hp
  simp only [polyMod_eq, List.range, List.range.loop, List.foldl_cons, List.foldl_nil, h0]
  simp only [reduceAt_shiftLeft, Nat.reduceLT, Nat.reduceAdd, setWidth_reduceAt_shiftLeft]

theorem polyMod_shiftLeft_eq_xtimes (a : Byte) (j : Nat) (hj : j < 8) :
    polyMod (a.setWidth 16 <<< j) = xtimes j a := by
  induction j with
  | zero => rw [BitVec.shiftLeft_zero, polyMod_setWidth, xtimes]
  | succ j ih =>
    have htop : (a.setWidth 16 <<< j).getLsbD 15 = false := by
      rw [BitVec.getLsbD_shiftLeft, BitVec.getLsbD_setWidth, BitVec.getLsbD_of_ge a _ (by omega)]
      simp
    rw [BitVec.shiftLeft_add, polyMod_shiftLeft _ htop, ih (by omega), xtimes]

/-- The remainder of a XOR of terms is the XOR of their remainders. -/
theorem polyMod_foldl_xor (k : Byte) (term : Nat → BitVec 16) (l : List Nat) (p : BitVec 16) :
    polyMod (l.foldl (fun acc j => if k.getLsbD j then acc ^^^ term j else acc) p) =
      l.foldl (fun acc j => if k.getLsbD j then acc ^^^ polyMod (term j) else acc) (polyMod p) :=
  (List.foldl_hom polyMod fun acc j => by rw [apply_ite polyMod, polyMod_xor]).symm

/-- Settles O9: the remainder is linear, and that of the term `a * x^j` is `xtimes j a`. -/
theorem gmulIsPolynomialProductModulo : Obligations.GmulIsPolynomialProductModulo := by
  intro a k
  have hterms := polyMod_foldl_xor k (fun j => a.setWidth 16 <<< j) (List.range 8) 0
  refine Eq.trans (List.foldl_ext _ _ _ fun acc j hj => ?_) hterms.symm
  rw [polyMod_shiftLeft_eq_xtimes a j (List.mem_range.mp hj)]

end Sys2Proof.Machine
end

section
/-! SUPPORT. MixColumns and its inverse (R130, R131): the circulant form of both, and the product of the
two circulants as polynomials in x, which needs no reduction (O12). -/

namespace Sys2Proof.Machine

theorem entry_mixColumns (s : StateMatrix) (r c : Fin 4) :
    entry (mixColumns s) r c =
      mul2 (entry s r c) ^^^ mul3 (entry s (r + 1) c) ^^^ entry s (r + 2) c ^^^
        entry s (r + 3) c := by
  rw [mixColumns, entry_matrixOf]
  match r with
  | 0 => rfl
  | 1 | 2 | 3 => simp only [mixColumn, Fin.reduceAdd]; ac_rfl

theorem entry_invMixColumns (s : StateMatrix) (r c : Fin 4) :
    entry (invMixColumns s) r c =
      mul14 (entry s r c) ^^^ mul11 (entry s (r + 1) c) ^^^ mul13 (entry s (r + 2) c) ^^^
        mul9 (entry s (r + 3) c) := by
  rw [invMixColumns, entry_matrixOf]
  match r with
  | 0 => rfl
  | 1 | 2 | 3 => simp only [invMixColumn, Fin.reduceAdd]; ac_rfl

/-- The first row of the product of the two circulants is 1, 0, 0, 0: as polynomials in x, so that
`xtime` need not be unfolded. -/
theorem invMix_mix_coeffs (a : Byte) :
    mul14 (mul2 a) ^^^ mul11 a ^^^ mul13 a ^^^ mul9 (mul3 a) = a ∧
    mul14 (mul3 a) ^^^ mul11 (mul2 a) ^^^ mul13 a ^^^ mul9 a = 0 ∧
    mul14 a ^^^ mul11 (mul3 a) ^^^ mul13 (mul2 a) ^^^ mul9 a = 0 ∧
    mul14 a ^^^ mul11 a ^^^ mul13 (mul3 a) ^^^ mul9 (mul2 a) = 0 := by
  simp only [mul2_eq, mul3_eq, mul9_eq, mul11_eq, mul13_eq, mul14_eq, xtime_xor]
  refine ⟨?_, ?_, ?_, ?_⟩ <;> grind

/-- One row of the inverse circulant on the four rows of the first, gathered by byte of the column. -/
theorem invMix_mix_row (a b c d : Byte) :
    mul14 (mul2 a ^^^ mul3 b ^^^ c ^^^ d) ^^^ mul11 (mul2 b ^^^ mul3 c ^^^ d ^^^ a) ^^^
      mul13 (mul2 c ^^^ mul3 d ^^^ a ^^^ b) ^^^ mul9 (mul2 d ^^^ mul3 a ^^^ b ^^^ c) = a := by
  obtain ⟨ha, -, -, -⟩ := invMix_mix_coeffs a
  obtain ⟨-, hb, -, -⟩ := invMix_mix_coeffs b
  obtain ⟨-, -, hc, -⟩ := invMix_mix_coeffs c
  obtain ⟨-, -, -, hd⟩ := invMix_mix_coeffs d
  calc
    _ = (mul14 (mul2 a) ^^^ mul11 a ^^^ mul13 a ^^^ mul9 (mul3 a)) ^^^
        (mul14 (mul3 b) ^^^ mul11 (mul2 b) ^^^ mul13 b ^^^ mul9 b) ^^^
        (mul14 c ^^^ mul11 (mul3 c) ^^^ mul13 (mul2 c) ^^^ mul9 c) ^^^
        (mul14 d ^^^ mul11 d ^^^ mul13 (mul3 d) ^^^ mul9 (mul2 d)) := by
      simp only [mul9, mul11, mul13, mul14, gmul_xor]
      ac_rfl
    _ = a := by rw [ha, hb, hc, hd]; simp

@[simp] theorem invMixColumns_mixColumns (s : StateMatrix) :
    invMixColumns (mixColumns s) = s := by
  refine matrix_ext fun r c => ?_
  simp only [entry_invMixColumns, entry_mixColumns, add_assoc, Fin.reduceAdd, add_zero]
  exact invMix_mix_row _ _ _ _

theorem finite_stateMatrix : Finite StateMatrix :=
  Finite.of_injective entry fun _ _ h => matrix_ext fun r c => congrFun (congrFun h r) c

/-- On a finite type a left inverse is a right inverse. -/
@[simp] theorem mixColumns_invMixColumns (s : StateMatrix) :
    mixColumns (invMixColumns s) = s := by
  have := finite_stateMatrix
  have hleft : Function.LeftInverse invMixColumns mixColumns := invMixColumns_mixColumns
  exact hleft.rightInverse_of_surjective (Finite.surjective_of_injective hleft.injective) s

/-- 02 XOR 03 XOR 01 XOR 01 is 01. -/
theorem mix_constant (b : Byte) : mul2 b ^^^ mul3 b ^^^ b ^^^ b = b := by
  rw [xor_cancel_right, mul2_eq, mul3_eq, BitVec.xor_comm b, xor_cancel_left]

/-- Settles O12: the rows of the matrices are one row shifted round, and the product of the two rows
is 1 as polynomials. -/
theorem mixColumnsIsCirculantAndInvertible : Obligations.MixColumnsIsCirculantAndInvertible := by
  refine ⟨fun s r c => ⟨entry_mixColumns s r c, entry_invMixColumns s r c⟩,
    fun s => ⟨invMixColumns_mixColumns s, mixColumns_invMixColumns s⟩, fun s c b h r => ?_⟩
  simp only [entry_mixColumns, h, mix_constant]

end Sys2Proof.Machine
end

section
/-! SUPPORT. The round pipeline (spec/42_round_pipeline.md): each inverse round takes back one round of
EncryptBlock, in the opposite order, and what is left is the block (O16, O17). -/

namespace Sys2Proof.Machine

theorem encryptBlock_eq (b : Block) (w : Schedule) :
    encryptBlock b w = fromState (encLast w (encRounds w (toState b) 13)) := by
  unfold encryptBlock; rfl

theorem decryptBlock_eq (c : Block) (w : Schedule) :
    decryptBlock c w = fromState (decLast w (decRounds w (toState c) 13)) := by
  unfold decryptBlock; rfl

/-- Settles O16: the recursions over the round number unroll to the folds over the list of rounds. -/
theorem blockCiphersAreFourteenRounds : Obligations.BlockCiphersAreFourteenRounds :=
  ⟨fun b w => encryptBlock_eq b w, fun c w => decryptBlock_eq c w⟩

/-! The direct inverse cipher runs half a round out of step with the cipher: between two of its rounds
the state has passed the SubBytes and ShiftRows of the round that is next to be taken back. -/

theorem decRound_encRound (w : Schedule) (r : Fin 15) (s : StateMatrix) :
    decRound w r (shiftRows (subBytes (encRound w r s))) = shiftRows (subBytes s) := by
  simp only [decRound, encRound, invShiftRows_shiftRows, invSubBytes_subBytes,
    addRoundKey_addRoundKey, invMixColumns_mixColumns]

theorem decRounds_encLast (w : Schedule) (s : StateMatrix) (n : Nat) (hn : n ≤ 13) :
    decRounds w (encLast w (encRounds w s 13)) n =
      shiftRows (subBytes (encRounds w s (13 - n))) := by
  induction n with
  | zero => exact addRoundKey_addRoundKey w 14 _
  | succ n ih =>
    have hround : 13 - n = 13 - (n + 1) + 1 := by omega
    rw [decRounds, ih (by omega), hround, encRounds, decRound_encRound]

theorem decLast_encRounds_zero (w : Schedule) (s : StateMatrix) :
    decLast w (shiftRows (subBytes (encRounds w s 0))) = s := by
  simp only [decLast, encRounds, invShiftRows_shiftRows, invSubBytes_subBytes,
    addRoundKey_addRoundKey]

@[simp] theorem decryptBlock_encryptBlock (b : Block) (w : Schedule) :
    decryptBlock (encryptBlock b w) w = b := by
  rw [encryptBlock_eq, decryptBlock_eq, toState_fromState, decRounds_encLast w _ 13 le_rfl,
    decLast_encRounds_zero, fromState_toState]

theorem finite_block : Finite Block :=
  have := finite_stateMatrix
  Finite.of_injective toState (Function.LeftInverse.injective fromState_toState)

/-- There are finitely many blocks, so EncryptBlock, being injective, reaches every one of them. -/
@[simp] theorem encryptBlock_decryptBlock (b : Block) (w : Schedule) :
    encryptBlock (decryptBlock b w) w = b := by
  have := finite_block
  have hleft : Function.LeftInverse (decryptBlock · w) (encryptBlock · w) :=
    fun b => decryptBlock_encryptBlock b w
  exact hleft.rightInverse_of_surjective (Finite.surjective_of_injective hleft.injective) b

/-- Settles O17: round by round in one direction, and by finiteness in the other. -/
theorem decryptBlockInvertsEncryptBlock : Obligations.DecryptBlockInvertsEncryptBlock :=
  fun b w => ⟨decryptBlock_encryptBlock b w, encryptBlock_decryptBlock b w⟩

end Sys2Proof.Machine
end

section
/-! SUPPORT. The CBC chain, block by block, and the padding of one block (O18 to O21, O24): what a
changed ciphertext block does, and what UnpadCheck and PadFinal do to each other. -/

namespace Sys2Proof.Machine

/-! One step of the chain (R187, R188, R198). -/

@[simp] theorem cbcDecStep_cbcEncStep (w : Schedule) (b ch : Block) :
    cbcDecStep w (cbcEncStep w b ch) ch = b := by
  rw [cbcDecStep, cbcEncStep, decryptBlock_encryptBlock, xorBlock_cancel]

@[simp] theorem cbcEncStep_cbcDecStep (w : Schedule) (c ch : Block) :
    cbcEncStep w (cbcDecStep w c ch) ch = c := by
  rw [cbcEncStep, cbcDecStep, xorBlock_cancel, encryptBlock_decryptBlock]

/-- A mask on the chaining value is a mask on the decrypted block (C6). -/
theorem cbcDecStep_xor_chain (w : Schedule) (c ch d : Block) :
    cbcDecStep w c (xorBlock ch d) = xorBlock (cbcDecStep w c ch) d := by
  ext i hi : 1
  simp only [cbcDecStep, xorBlock_getElem _ _ _ hi, BitVec.xor_assoc]

theorem xorBlock_ne_self (b : Block) {d : Block} (hd : d ≠ Vector.replicate 16 0) :
    xorBlock b d ≠ b := by
  intro h
  refine hd (Vector.ext fun i hi => ?_)
  have hxor : b[i] ^^^ d[i] = b[i] := by rw [← xorBlock_getElem _ _ _ hi, h]
  simpa using hxor

/-- Under one chaining value, different ciphertext blocks decrypt to different blocks. -/
theorem cbcDecStep_injective (w : Schedule) (ch : Block) :
    Function.Injective fun c => cbcDecStep w c ch :=
  Function.LeftInverse.injective (g := fun b => cbcEncStep w b ch) fun c =>
    cbcEncStep_cbcDecStep w c ch

/-- Settles O18: the two steps by definition, and the inverse from that of the block cipher. -/
theorem cbcDecStepInvertsCbcEncStep : Obligations.CbcDecStepInvertsCbcEncStep :=
  fun w b ch => ⟨rfl, rfl, cbcDecStep_cbcEncStep w b ch⟩

/-! The decryption loop (R172). -/

@[simp] theorem cbcDecrypt_length (w : Schedule) (ch : Block) (cs : List Block) :
    (cbcDecrypt w ch cs).length = cs.length := by
  induction cs generalizing ch with
  | nil => rfl
  | cons c cs ih => simp only [cbcDecrypt, List.length_cons, ih]

/-- The chaining value of the blocks after `cs` is the last block of `cs`. -/
theorem cbcDecrypt_append (w : Schedule) (ch : Block) (cs ds : List Block) :
    cbcDecrypt w ch (cs ++ ds) = cbcDecrypt w ch cs ++ cbcDecrypt w (cs.getLastD ch) ds := by
  induction cs generalizing ch with
  | nil => rfl
  | cons c cs ih => simp only [List.cons_append, cbcDecrypt, ih, List.getLastD_cons]

/-- Settles O24, by induction on the ciphertext: the first block is the chaining value of the
rest. -/
theorem decryptedBlockNeedsTwoCiphertextBlocks :
    Obligations.DecryptedBlockNeedsTwoCiphertextBlocks := by
  refine fun w iv cs => ⟨cbcDecrypt_length w iv cs, fun j h => ?_⟩
  induction cs generalizing iv j with
  | nil => simp at h
  | cons c cs ih =>
    cases j with
    | zero => rfl
    | succ j =>
      have hj : j < cs.length := by simpa using h
      rw [cbcDecrypt, List.getElem?_cons_succ, ih c j hj]
      cases j with
      | zero => rfl
      | succ j => simp [Nat.lt_of_succ_lt hj]

/-- Settles O19: the blocks before the change stand as they do, the changed block decrypts to
another because the step is injective, and it masks the next block as its chaining value. -/
theorem ciphertextFlipReachesTwoBlocks : Obligations.CiphertextFlipReachesTwoBlocks := by
  have hne {w : Schedule} {c d : Block} (ch : Block) (hd : d ≠ Vector.replicate 16 0) :
      cbcDecStep w c ch ≠ cbcDecStep w (xorBlock c d) ch :=
    (cbcDecStep_injective w ch).ne (xorBlock_ne_self c hd).symm
  refine ⟨fun w iv c c2 d pre post hd => ?_, fun w iv c d pre hd => ?_⟩
  · exact ⟨cbcDecrypt w iv pre, cbcDecrypt w c2 post, _, _, cbcDecStep w c2 c,
      cbcDecrypt_length w iv pre, hne (pre.getLastD iv) hd, cbcDecrypt_append w iv pre _,
      by rw [cbcDecrypt_append, cbcDecrypt, cbcDecrypt, cbcDecStep_xor_chain]⟩
  · exact ⟨cbcDecrypt w iv pre, _, _, cbcDecrypt_length w iv pre, hne (pre.getLastD iv) hd,
      cbcDecrypt_append w iv pre [c], cbcDecrypt_append w iv pre [xorBlock c d]⟩

/-! The padding of one block (R183, R184, R192). -/

theorem padFinal_getElem (x : Block) (n i : Nat) (h : i < 16) :
    (padFinal x n)[i] = if i < n then x[i] else BitVec.ofNat 8 (16 - n) := by
  simp [padFinal]

theorem stripPad_getElem (q : Block) (k i : Nat) (h : i < 16) :
    (stripPad q k)[i] = if i < k then q[i] else 0 := by
  simp [stripPad]

theorem unpadCheck_eq_none_iff {q : Block} :
    unpadCheck q = none ↔ q[15].toNat = 0 ∨ 16 < q[15].toNat := by
  simp [unpadCheck, ← or_iff_not_imp_left]

theorem unpadCheck_of_last {q : Block} {p : Nat} (h : q[15].toNat = p) (h1 : 1 ≤ p)
    (h16 : p ≤ 16) : unpadCheck q = some (16 - p) := by
  subst h
  exact if_neg (by omega)

theorem unpadCheck_padFinal (x : Block) {n : Nat} (hn : n ≤ 15) :
    unpadCheck (padFinal x n) = some n := by
  have hlast : (padFinal x n)[15].toNat = 16 - n := by
    rw [padFinal_getElem, if_neg (by omega), BitVec.toNat_ofNat]
    omega
  rw [unpadCheck_of_last hlast (by omega) (by omega), Nat.sub_sub_self (by omega)]

/-- PadFinal sees the first n bytes of its block and no others. -/
theorem padFinal_congr {x y : Block} {n : Nat} (h : ∀ i : Fin 16, i.val < n → x[i.val] = y[i.val]) :
    padFinal x n = padFinal y n := by
  ext i hi : 1
  rw [padFinal_getElem _ _ _ hi, padFinal_getElem _ _ _ hi]
  split
  · next hn => exact h ⟨i, hi⟩ hn
  · rfl

/-- Settles O20: byte by byte, and the last pad byte says how many bytes to keep. -/
theorem unpadUndoesPadFinal : Obligations.UnpadUndoesPadFinal := by
  refine fun x n hn => ⟨fun i => ⟨fun h => ?_, fun h => ?_⟩, unpadCheck_padFinal x hn, fun i => ?_⟩
  · rw [padFinal_getElem, if_pos h]
  · rw [padFinal_getElem, if_neg (Nat.not_lt.mpr h)]
  · rw [stripPad_getElem, padFinal_getElem]
    split <;> rfl

/-- Settles O21: UnpadCheck is a function of the last byte. -/
theorem unpadCheckReadsOnlyTheLastByte : Obligations.UnpadCheckReadsOnlyTheLastByte := by
  refine fun q => ⟨fun h => ?_, unpadCheck_of_last rfl, fun q' h => by rw [unpadCheck, h]; rfl⟩
  exact unpadCheck_eq_none_iff.mpr (h.imp_left fun h0 => by rw [h0]; rfl)

end Sys2Proof.Machine
end

section
/-! SUPPORT. Whole messages (O22, O23, O25): the padded message as blocks, the encryption loop,
and the unpadding of the blocks that the decryption loop gives. -/

namespace Sys2Proof.Machine

/-! The padded message and its blocks (R170, R171). -/

theorem padMessage_length (m : List Byte) :
    (padMessage m).length = 16 * (m.length / 16 + 1) := by
  rw [padMessage, List.length_append, List.length_replicate, padLen]
  omega

/-- Settles O22: padLen counts what the last block lacks, sixteen when it lacks nothing. -/
theorem paddedLengthIsPositiveMultiple : Obligations.PaddedLengthIsPositiveMultiple :=
  fun m => ⟨16 - m.length % 16, rfl, by omega, by omega, rfl, padMessage_length m⟩

theorem blockAt_getElem (m : List Byte) (j i : Nat) (h : i < 16) :
    (blockAt m j)[i] = m.getD (16 * j + i) 0 := by
  simp [blockAt]

theorem blocksOf_padMessage_length (m : List Byte) :
    (blocksOf (padMessage m)).length = m.length / 16 + 1 := by
  rw [blocksOf, List.length_map, List.length_range, padMessage_length]
  omega

theorem blockAt_padMessage_of_lt {m : List Byte} {j : Nat} (hj : j < m.length / 16) :
    blockAt (padMessage m) j = blockAt m j := by
  ext i hi : 1
  rw [blockAt_getElem _ _ _ hi, blockAt_getElem _ _ _ hi, padMessage,
    List.getD_append _ _ _ _ (by omega)]

/-- What a block must hold to be the last one of the message before its padding: the bytes that are
left, and then any bytes (R197). -/
def EndsMessage (last : Block) (m : List Byte) : Prop :=
  ∀ i : Fin 16, i.val < m.length % 16 → last[i.val] = m.getD (16 * (m.length / 16) + i.val) 0

theorem endsMessage_blockAt (m : List Byte) : EndsMessage (blockAt m (m.length / 16)) m :=
  fun i _ => blockAt_getElem m (m.length / 16) i.val i.isLt

/-- The last block of the padded message is what PadFinal makes of the bytes that are left (R183).
-/
theorem blockAt_padMessage_last {m : List Byte} {last : Block} (h : EndsMessage last m) :
    blockAt (padMessage m) (m.length / 16) = padFinal last (m.length % 16) := by
  ext i hi : 1
  rw [blockAt_getElem _ _ _ hi, padFinal_getElem _ _ _ hi, padMessage]
  split
  · next hlt => rw [h ⟨i, hi⟩ hlt, List.getD_append _ _ _ _ (by omega)]
  · rw [List.getD_append_right _ _ _ _ (by omega), List.getD_replicate _ (by rw [padLen]; omega),
      padLen]

/-- The padded message is the whole blocks of the message and one padded block. -/
theorem blocksOf_padMessage {m : List Byte} {last : Block} (h : EndsMessage last m) :
    blocksOf (padMessage m) = blocksOf m ++ [padFinal last (m.length % 16)] := by
  have hlen : (padMessage m).length / 16 = m.length / 16 + 1 := by
    rw [padMessage_length]
    omega
  rw [blocksOf, hlen, List.range_succ, List.map_append, List.map_singleton,
    blockAt_padMessage_last h]
  exact congrArg (· ++ _)
    (List.map_congr_left fun j hj => blockAt_padMessage_of_lt (List.mem_range.mp hj))

/-! The bytes of a list of blocks (R172). -/

@[simp] theorem bytesOfBlocks_append (bs cs : List Block) :
    bytesOfBlocks (bs ++ cs) = bytesOfBlocks bs ++ bytesOfBlocks cs := List.flatMap_append

@[simp] theorem bytesOfBlocks_singleton (b : Block) : bytesOfBlocks [b] = b.toList :=
  List.flatMap_singleton _ b

theorem blockAt_toList {m : List Byte} {j : Nat} (h : 16 * j + 16 ≤ m.length) :
    (blockAt m j).toList = (m.drop (16 * j)).take 16 := by
  refine List.ext_getElem ?_ fun i hi _ => ?_
  · simp only [List.length_take, Vector.length_toList, List.length_drop]
    omega
  have hi16 : i < 16 := by simpa using hi
  simp [blockAt_getElem, show 16 * j + i < m.length by omega]

/-- The whole blocks of a byte sequence are its bytes but for those that make no block. -/
theorem bytesOfBlocks_blocksOf (m : List Byte) :
    bytesOfBlocks (blocksOf m) = m.take (16 * (m.length / 16)) := by
  have h : 16 * (m.length / 16) ≤ m.length := by omega
  rw [blocksOf]
  generalize m.length / 16 = n at h
  induction n with
  | zero => rfl
  | succ n ih =>
    rw [List.range_succ, List.map_append, bytesOfBlocks_append, ih (by omega), List.map_singleton,
      bytesOfBlocks_singleton, blockAt_toList (by omega), Nat.mul_succ, List.take_add]

/-- The bytes that are left after the whole blocks of a message. -/
theorem EndsMessage.take_toList {m : List Byte} {last : Block} (h : EndsMessage last m) :
    last.toList.take (m.length % 16) = m.drop (16 * (m.length / 16)) := by
  refine List.ext_getElem ?_ fun i hi _ => ?_
  · simp only [List.length_take, Vector.length_toList, List.length_drop]
    omega
  have hlt : i < m.length % 16 := hi.trans_le (List.length_take_le _ _)
  have hlast := h ⟨i, by omega⟩ hlt
  rw [List.getD_eq_getElem _ _ (show 16 * (m.length / 16) + i < m.length by omega)] at hlast
  simpa using hlast

theorem take_toList_congr {x y : Block} {n : Nat}
    (h : ∀ (i : Nat) (hi : i < 16), i < n → x[i] = y[i]) :
    x.toList.take n = y.toList.take n := by
  refine List.ext_getElem (by simp) fun i hi _ => ?_
  have hlt : i < n ∧ i < 16 := by simpa using hi
  simpa using h i hlt.2 hlt.1

theorem padFinal_take (x : Block) (n : Nat) :
    (padFinal x n).toList.take n = x.toList.take n :=
  take_toList_congr fun i hi hn => by rw [padFinal_getElem _ _ _ hi, if_pos hn]

theorem stripPad_take (q : Block) (k : Nat) :
    (stripPad q k).toList.take k = q.toList.take k :=
  take_toList_congr fun i hi hk => by rw [stripPad_getElem _ _ _ hi, if_pos hk]

/-- The unpadding of the whole output is UnpadCheck on its last block: the length test never fails,
because a block has sixteen bytes (R172, R184, C5). -/
theorem unpadMessage_blocks (qs : List Block) (q : Block) :
    unpadMessage (bytesOfBlocks (qs ++ [q])) =
      (unpadCheck q).map fun k => bytesOfBlocks qs ++ q.toList.take k := by
  have hlast : (bytesOfBlocks qs ++ q.toList).getLast? = some q[15] := by
    simp [List.getLast?_eq_getElem?]
  rw [bytesOfBlocks_append, bytesOfBlocks_singleton]
  simp only [unpadMessage, hlast]
  generalize hp : q[15].toNat = p
  have hlen : (bytesOfBlocks qs ++ q.toList).length = (bytesOfBlocks qs).length + 16 := by simp
  by_cases hbad : p = 0 ∨ 16 < p
  · rw [if_pos (by omega), unpadCheck_eq_none_iff.mpr (hp ▸ hbad)]
    rfl
  · rw [if_neg (by omega), unpadCheck_of_last hp (by omega) (by omega), hlen,
      Nat.add_sub_assoc (by omega), List.take_length_add_append]
    rfl

/-! The encryption loop (R171). -/

@[simp] theorem cbcEncrypt_length (w : Schedule) (ch : Block) (ps : List Block) :
    (cbcEncrypt w ch ps).length = ps.length := by
  induction ps generalizing ch with
  | nil => rfl
  | cons p ps ih => simp only [cbcEncrypt, List.length_cons, ih]

@[simp] theorem cbcDecrypt_cbcEncrypt (w : Schedule) (ch : Block) (ps : List Block) :
    cbcDecrypt w ch (cbcEncrypt w ch ps) = ps := by
  induction ps generalizing ch with
  | nil => rfl
  | cons p ps ih => simp only [cbcEncrypt, cbcDecrypt, ih, cbcDecStep_cbcEncStep]

/-- Block j of the loop's output, from block j of its input and the output before it: what the
decryption of the output says of block j, solved for the ciphertext block. -/
theorem cbcEncrypt_getElem? (w : Schedule) (iv : Block) {ps : List Block} {j : Nat}
    (h : j < ps.length) :
    (cbcEncrypt w iv ps)[j]? =
      some (cbcEncStep w ps[j] (if j = 0 then iv else (cbcEncrypt w iv ps).getD (j - 1) iv)) := by
  have hc : j < (cbcEncrypt w iv ps).length := by rwa [cbcEncrypt_length]
  have hdec := (decryptedBlockNeedsTwoCiphertextBlocks w iv (cbcEncrypt w iv ps)).2 j hc
  rw [cbcDecrypt_cbcEncrypt, List.getElem?_eq_getElem h, Option.some.injEq] at hdec
  rw [hdec, List.getElem?_eq_getElem hc]
  exact congrArg some (cbcEncStep_cbcDecStep w _ _).symm

/-- Settles O23: the loop's blocks, on the blocks of the padded message. -/
theorem encryptMessageChainsItsBlocks : Obligations.EncryptMessageChainsItsBlocks := by
  refine fun key iv m => ⟨?_, fun j hj => ?_⟩
  · rw [encryptMessage, cbcEncrypt_length, blocksOf_padMessage_length]
  · have hlt : j < (blocksOf (padMessage m)).length := by
      rw [blocksOf_padMessage_length]
      omega
    rw [encryptMessage, cbcEncrypt_getElem? _ _ hlt]
    simp only [blocksOf, List.getElem_map, List.getElem_range, cbcEncStep]

/-- Settles O25: the loops undo each other, and unpadding the padded blocks gives the whole blocks
of the message and the bytes that are left. -/
theorem decryptMessageUndoesEncryptMessage : Obligations.DecryptMessageUndoesEncryptMessage := by
  intro key iv m
  have hlast := endsMessage_blockAt m
  rw [decryptMessage, encryptMessage, cbcDecrypt_cbcEncrypt, blocksOf_padMessage hlast,
    unpadMessage_blocks, unpadCheck_padFinal _ (by omega), Option.map_some, padFinal_take,
    hlast.take_toList, bytesOfBlocks_blocksOf, List.take_append_drop]

end Sys2Proof.Machine
end

section
/-! SUPPORT. The commands one by one (O26 to O34, O42), the engine step that runs them (O6), and
when a pending command is over (O56). -/

namespace Sys2Proof.Machine

/-- An outcome open to the registers is the one `exec` gives, and the outside world's record
stands. -/
theorem exec_of_regsOutcome_world {i : Instr} {s : State} {q : Regs}
    (o : RegsOutcome s.regs i q) :
    ∃ t, exec i s = .next t ∧ t.inputs = s.inputs ∧ t.lag = s.lag ∧ t.reads = s.reads ∧
      t.regs = q := by
  obtain ⟨t, ht, hregs⟩ := exec_of_regsOutcome o
  obtain ⟨hinputs, hlag, hreads⟩ := exec_world ht
  exact ⟨t, ht, hinputs, hlag, hreads, hregs⟩

/-- A BEGIN does to the machine what the opening of a session does to its registers. -/
theorem exec_begin_of_eq {i : Instr} {m : Mode} (hi : Begins i m) {s : State} {f : Regs → Regs}
    (h : beginSession m s.regs = f s.regs) : exec i s = .next (onRegs f s) := by
  rw [exec_begin hi, onRegs, h, onRegs]

/-- Settles O34: a command is one function of the registers, in every state. -/
theorem everyCommandCompletes : Obligations.EveryCommandCompletes := exec_completes

/-- Settles O6: the engine's turn, the decoder's answer, and a command that answers a next state. -/
theorem stepRunsTheDecodedCommand : Obligations.StepRunsTheDecodedCommand := by
  refine ⟨fun s v i hturn hd => ?_, fun s v => ⟨?_, .inl rfl⟩⟩
  · obtain ⟨t, ht⟩ := exec_completes i s
    simp only [step_engine hturn.1 hturn.2, engineStep, hd, ht]
    rfl
  · rw [withFetchWord_regs_pending, Nat.mod_eq_of_lt v.isLt, BitVec.ofNat_toNat,
      BitVec.setWidth_eq]

/-- Settles O26: NOP writes ERR alone. -/
theorem nopSetsErrNoneOnly : Obligations.NopSetsErrNoneOnly := fun _ => rfl

/-- Settles O27: the outcomes of the opening of a session, in the order of its tests. -/
theorem beginOpensSessionOrNamesTheError : Obligations.BeginOpensSessionOrNamesTheError := by
  intro i m him s
  have hb : Begins i m := by
    rcases him with ⟨rfl, rfl⟩ | ⟨rfl, rfl⟩
    · exact .enc
    · exact .dec
  exact ⟨fun ha => exec_begin_of_eq hb (f := setErr .seq) (if_pos ha),
    fun ha hk => exec_begin_of_eq hb (f := setErr .keyLen)
      ((if_neg (by simp [ha])).trans (if_pos hk)),
    fun ha hk hv => exec_begin_of_eq hb (f := setErr .ivLen)
      ((if_neg (by simp [ha])).trans ((if_neg (not_not.mpr hk)).trans (if_pos hv))),
    fun ha hk hv => exec_of_regsOutcome_world (.opened hb ha hk hv)⟩

/-- Settles O28: one block through the pipeline in the session's direction. -/
theorem blockProcessesDinUnderChain : Obligations.BlockProcessesDinUnderChain :=
  fun _ => ⟨fun ha => exec_needsSession_idle .block ha, fun ha =>
    ⟨_, exec_block_active ha, rfl, rfl, rfl, blockRegs_enc, blockRegs_dec⟩⟩

/-- Settles O29: the output of FINAL is the encryption of what PadFinal makes of DIN. -/
theorem finalEncryptsThePaddedBlock : Obligations.FinalEncryptsThePaddedBlock := by
  refine fun s n _ => ⟨exec_needsSession_idle (.final n), fun ha hm => ?_⟩
  obtain ⟨t, ht, hinputs, hlag, hreads, hregs⟩ :=
    exec_of_regsOutcome_world (.finalEnc (n := n) _ ha hm rfl)
  exact ⟨t, _, ht, hinputs, hlag, hreads, rfl, hregs⟩

/-- Settles O30: a last byte in 1..16 is padding that UnpadCheck takes. -/
theorem finalDecryptsAndStripsThePadding : Obligations.FinalDecryptsAndStripsThePadding :=
  fun _ q ha hm hq h1 h16 =>
    exec_of_regsOutcome_world (.finalDec q _ ha hm hq (unpadCheck_of_last rfl h1 h16))

/-- Settles O31: the two errors that end a session. -/
theorem decryptingFinalFailsClosed : Obligations.DecryptingFinalFailsClosed := by
  rintro s n q e ha hm rfl (⟨hn, -, rfl⟩ | ⟨rfl, hpad, rfl⟩)
  · exact exec_of_regsOutcome_world (.finalBlockLen ha hm hn)
  · exact exec_of_regsOutcome_world (.finalPad ha hm (unpadCheck_eq_none_iff.mpr hpad))

/-- Settles O32: ABORT is legal in every state. -/
theorem abortEndsTheSession : Obligations.AbortEndsTheSession :=
  fun _ => exec_of_regsOutcome_world .abort

/-- Settles O33: the engine step empties PENDING, the one register CLEAR leaves. -/
theorem clearRestoresTheResetValues : Obligations.ClearRestoresTheResetValues := by
  intro s
  obtain ⟨t, ht, hinputs, hlag, hreads, hregs⟩ := exec_of_regsOutcome_world (s := s) .clear
  refine ⟨t, ht, hinputs, hlag, hreads, hregs, fun v u hd hu => ?_⟩
  obtain rfl : u = complete t := by simpa [engineStep, hd, ht] using hu.symm
  have hreset : (complete t).regs = Regs.reset := by rw [complete, hregs]; rfl
  rw [hreset]
  exact ⟨rfl, by decide⟩

/-- Settles O42: PadFinal reads the first n bytes of DIN, and nothing else of an encrypting FINAL
reads DIN. -/
theorem dinBeyondLenIsIgnored : Obligations.DinBeyondLenIsIgnored := by
  intro s n d ha hm _ hd
  refine ⟨_, _, exec_final_enc ha hm, exec_final_enc ha hm, ?_⟩
  simp only [onRegsDrawing_regs, finalEncRegs, padFinal_congr hd]
  rfl

/-! A pending command (R178, R262). -/

theorem engineStep_pending {v : Word} {s t : State} (h : engineStep v s = .next t) :
    t.regs.pending = none := by
  rcases engineStep_cases h with ⟨_, -, rfl⟩ | ⟨_, _, -, -, rfl⟩ <;> rfl

/-- The outside world under a pending command resets the core, or leaves the command pending. -/
theorem hostStep_pending {e : HostEvent} {rest : List HostEvent} {s t : State} {v : Word}
    (hp : s.regs.pending = some v) (h : hostStep e rest s = .next t) :
    t.regs.pending = none ∨ (t.regs.pending = some v ∧ t.lag = s.lag - 1) := by
  rcases hostStep_cases h with ⟨off, -, -, -, rfl⟩ | ⟨off, w, -, -, -, rfl⟩ | ⟨-, -, rfl⟩ |
    ⟨-, hb, -⟩ | ⟨-, rfl⟩
  · exact .inr ⟨hp, rfl⟩
  · rw [busWrite_busy (s := takeEvent rest s) (busy_of_some hp)]
    exact .inr ⟨hp, rfl⟩
  · exact .inr ⟨hp, rfl⟩
  · simp [busy_of_some hp] at hb
  · exact .inl rfl

/-- Under a pending command a step ends it, or leaves one step less before the engine's turn. -/
theorem step_pending {s t : State} {v : Word} (hp : s.regs.pending = some v)
    (h : step s = .next t) :
    t.regs.pending = none ∨ (t.regs.pending = some v ∧ t.lag + 1 = s.lag) := by
  rcases step_cases h with ⟨_, -, -, he⟩ | ⟨e, rest, -, hlag, hh⟩ | ⟨hn, -, -⟩
  · exact .inl (engineStep_pending he)
  · have hpos : s.lag ≠ 0 := hlag.resolve_left (by simp [hp])
    exact (hostStep_pending hp hh).imp_right fun ⟨hp', ht⟩ => ⟨hp', by omega⟩
  · simp [hp] at hn

/-- Settles O56, by induction on the lag, which every step that leaves the command pending lowers.
-/
theorem pendingCommandCompletesInTime : Obligations.PendingCommandCompletesInTime := by
  intro s hp hsafe
  induction hl : s.lag using Nat.strong_induction_on generalizing s with
  | _ n ih =>
    obtain ⟨v, hv⟩ := Option.ne_none_iff_exists'.mp hp
    obtain ⟨t, ht, hsafe'⟩ := safeInputsNeverStop s hsafe
    rcases step_pending hv ht with hn | ⟨hv', hlag⟩
    · exact ⟨1, t, le_rfl, by omega, run_succ ht 0, hn⟩
    · obtain ⟨k, u, -, hk, hrun, hu⟩ := ih t.lag (by omega) t (by simp [hv']) hsafe' rfl
      exact ⟨k + 1, u, by omega, by omega, (run_succ ht k).trans hrun, hu⟩

end Sys2Proof.Machine
end

section
/-! SUPPORT. What the accesses of a host program do to a machine that waits for them: stores,
reads of DOUT, and a command with its WAIT under any timing of the engine (R86, R87). -/

namespace Sys2Proof.Machine

theorem doutReads_cons (x : ReadResult) (reads : List ReadResult) :
    doutReads (x :: reads) =
      doutReads reads ++ if 0x50 ≤ x.off ∧ x.off < 0x60 then [x.value] else [] := by
  by_cases h : 0x50 ≤ x.off ∧ x.off < 0x60 <;> simp [doutReads, List.filter_append, h]

/-- The host's accesses `es` take a waiting machine with the registers `r` to a waiting machine
with the registers `q`, and the words read from DOUT on the way are `ws`. -/
def HostRuns (r : Regs) (es : List HostEvent) (q : Regs) (ws : List Word) : Prop :=
  q.pending = none ∧ ∀ (s : State) (rest : List HostEvent), s.regs = r → s.inputs = es ++ rest →
    ∃ (n : Nat) (t : State), Host.Core.run core n s = .next t ∧ t.regs = q ∧ t.inputs = rest ∧
      doutReads t.reads = doutReads s.reads ++ ws

theorem HostRuns.nil {r : Regs} (hr : r.pending = none) : HostRuns r [] r [] :=
  ⟨hr, fun s _ hs hi => ⟨0, s, rfl, hs, hi, (List.append_nil _).symm⟩⟩

theorem HostRuns.append {r q u : Regs} {es fs : List HostEvent} {ws vs : List Word}
    (h : HostRuns r es q ws) (h' : HostRuns q fs u vs) :
    HostRuns r (es ++ fs) u (ws ++ vs) := by
  refine ⟨h'.1, fun s rest hs hi => ?_⟩
  obtain ⟨n, t, hrun, ht, hti, htr⟩ := h.2 s (fs ++ rest) hs (by rw [hi, List.append_assoc])
  obtain ⟨n', t', hrun', ht', hti', htr'⟩ := h'.2 t rest ht hti
  exact ⟨n + n', t', run_trans hrun hrun', ht', hti', by rw [htr', htr, List.append_assoc]⟩

/-! Single accesses while no command is pending (R57, R59). -/

theorem hostRuns_of_hostStep {r q : Regs} {e : HostEvent} {ws : List Word}
    (hr : r.pending = none) (hq : q.pending = none)
    (h : ∀ (s : State) (rest : List HostEvent), s.regs = r → ∃ t, hostStep e rest s = .next t ∧
      t.regs = q ∧ t.inputs = rest ∧ doutReads t.reads = doutReads s.reads ++ ws) :
    HostRuns r [e] q ws := by
  refine ⟨hq, fun s rest hs hi => ?_⟩
  obtain ⟨t, ht, hpost⟩ := h s rest hs
  have hstep : step s = .next t := (step_host hi (.inl (hs ▸ hr))).trans ht
  exact ⟨1, t, run_succ hstep 0, hpost⟩

theorem hostRuns_store {r : Regs} {off : Nat} (hr : r.pending = none) (h4 : off % 4 = 0)
    (h256 : off < 256) (hw : winReg off ≠ .cmd) (v : Word) :
    HostRuns r [.write off 4 v] (storeWord r off v) [] := by
  refine hostRuns_of_hostStep hr ((storeWord_pending r off v).trans hr) fun s rest hs => ?_
  subst hs
  refine ⟨_, hostStep_write h4 h256 v rest s, ?_⟩
  rw [busWrite_idle_store (s := takeEvent rest s) (busy_of_none hr) hw]
  exact ⟨rfl, rfl, (List.append_nil _).symm⟩

theorem hostRuns_readDout {r : Regs} (hr : r.pending = none) (k : Fin 4) :
    HostRuns r [rd (.dout k)] r [r.dout[k]] := by
  refine hostRuns_of_hostStep hr hr fun s rest hs => ?_
  subst hs
  refine ⟨_, hostStep_read (by simp only [offsetOf]; omega) (by simp only [offsetOf]; omega) rest s,
    ?_⟩
  rw [busRead_idle (s := takeEvent rest s) (busy_of_none hr)]
  refine ⟨rfl, rfl, ?_⟩
  rw [doutReads_cons, if_pos (by simp only [offsetOf]; omega)]
  simp [offsetOf, idleRead]

theorem hostRuns_waitIdle {r : Regs} (hr : r.pending = none) : HostRuns r [.wait] r [] := by
  refine hostRuns_of_hostStep hr hr fun s rest hs => ?_
  subst hs
  refine ⟨_, hostStep_wait rest s, ?_⟩
  rw [busy_of_none hr]
  exact ⟨rfl, rfl, doutReads_cons _ _⟩

theorem hostRuns_stores {α : Type} {x : α → WinReg} (v : α → Word)
    (hx : ∀ a, offsetOf (x a) % 4 = 0 ∧ offsetOf (x a) < 256 ∧ winReg (offsetOf (x a)) ≠ .cmd)
    {r : Regs} (hr : r.pending = none) (l : List α) :
    HostRuns r (l.map fun a => wr (x a) (v a))
      (l.foldl (fun r a => storeWord r (offsetOf (x a)) (v a)) r) [] := by
  induction l generalizing r with
  | nil => exact .nil hr
  | cons a l ih =>
    obtain ⟨h4, h256, hw⟩ := hx a
    exact (hostRuns_store hr h4 h256 hw (v a)).append (ih ((storeWord_pending _ _ _).trans hr))

theorem hostRuns_rdOut {r : Regs} (hr : r.pending = none) : HostRuns r rdOut r r.dout.toList := by
  have h (l : List (Fin 4)) :
      HostRuns r (l.map fun j => rd (.dout j)) r (l.map fun j => r.dout[j]) := by
    induction l with
    | nil => exact .nil hr
    | cons j l ih => exact (hostRuns_readDout hr j).append ih
  have hlist : (List.finRange 4).map (fun j => r.dout[j]) = r.dout.toList := by
    refine List.ext_getElem (by simp) fun i _ _ => by simp
  exact hlist ▸ h (List.finRange 4)

/-! The groups of stores LDKEY, LDIV and LDIN (R87). -/

theorem foldl_set_getElem {α : Type} {n : Nat} (w : Vector α n) (l : List (Fin n))
    (v : Vector α n) (i : Nat) (hi : i < n) :
    (l.foldl (fun u j => u.set j.val w[j]) v)[i] = if ⟨i, hi⟩ ∈ l then w[i] else v[i] := by
  induction l generalizing v with
  | nil => simp
  | cons j l ih =>
    rw [List.foldl_cons, ih]
    by_cases hj : j.val = i
    · subst hj
      simp
    · have hne : (⟨i, hi⟩ : Fin n) ≠ j := fun h => hj (congrArg Fin.val h).symm
      simp [hne, Vector.getElem_set_ne, hj]

/-- Every entry written in its turn, the vector is the one written. -/
theorem foldl_set_finRange {α : Type} {n : Nat} (v w : Vector α n) :
    (List.finRange n).foldl (fun u j => u.set j.val w[j]) v = w := by
  ext i hi : 1
  rw [foldl_set_getElem, if_pos (List.mem_finRange _)]

theorem foldl_markKey (st : Status) :
    (List.finRange 8).foldl (fun st j => markKey j st) st = { st with keyw := 0xFF } := by
  have hall : ∀ b : Byte, (List.finRange 8).foldl (fun b j => b ||| 1#8 <<< j.val) b = 0xFF := by
    decide
  rw [← hall st.keyw]
  refine List.foldl_hom (fun b => { st with keyw := b }) ?_
  exact fun _ _ => rfl

theorem foldl_markIv (st : Status) :
    (List.finRange 4).foldl (fun st j => markIv j st) st = { st with ivw := 0xF } := by
  have hall : ∀ b : BitVec 4, (List.finRange 4).foldl (fun b j => b ||| 1#4 <<< j.val) b = 0xF := by
    decide
  rw [← hall st.ivw]
  refine List.foldl_hom (fun b => { st with ivw := b }) ?_
  exact fun _ _ => rfl

theorem storeWord_key (r : Regs) (j : Fin 8) (v : Word) :
    storeWord r (offsetOf (.key j)) v =
      { r with key := r.key.set j.val v, status := markKey j r.status } := by
  simp [storeWord, offsetOf]

theorem storeWord_iv (r : Regs) (j : Fin 4) (v : Word) :
    storeWord r (offsetOf (.iv j)) v =
      { r with iv := r.iv.set j.val v, status := markIv j r.status } := by
  simp [storeWord, offsetOf]

theorem storeWord_din (r : Regs) (j : Fin 4) (v : Word) :
    storeWord r (offsetOf (.din j)) v = { r with din := r.din.set j.val v } := by
  simp [storeWord, offsetOf]

theorem foldl_storeKey (k : KeyWords) (l : List (Fin 8)) (r : Regs) :
    l.foldl (fun r j => storeWord r (offsetOf (.key j)) k[j]) r =
      { r with key := l.foldl (fun u j => u.set j.val k[j]) r.key,
               status := l.foldl (fun st j => markKey j st) r.status } := by
  induction l generalizing r with
  | nil => rfl
  | cons j l ih => rw [List.foldl_cons, ih, storeWord_key]; rfl

theorem foldl_storeIv (v : Quad) (l : List (Fin 4)) (r : Regs) :
    l.foldl (fun r j => storeWord r (offsetOf (.iv j)) v[j]) r =
      { r with iv := l.foldl (fun u j => u.set j.val v[j]) r.iv,
               status := l.foldl (fun st j => markIv j st) r.status } := by
  induction l generalizing r with
  | nil => rfl
  | cons j l ih => rw [List.foldl_cons, ih, storeWord_iv]; rfl

theorem foldl_storeDin (d : Quad) (l : List (Fin 4)) (r : Regs) :
    l.foldl (fun r j => storeWord r (offsetOf (.din j)) d[j]) r =
      { r with din := l.foldl (fun u j => u.set j.val d[j]) r.din } := by
  induction l generalizing r with
  | nil => rfl
  | cons j l ih => rw [List.foldl_cons, ih, storeWord_din]; rfl

theorem hostRuns_ldKey {r : Regs} (hr : r.pending = none) (k : KeyBytes) :
    HostRuns r (ldKey k)
      { r with key := keyWordsOf k, status := { r.status with keyw := 0xFF } } [] := by
  have h := hostRuns_stores (x := .key) (fun j => (keyWordsOf k)[j]) (by decide) hr
    (List.finRange 8)
  rwa [foldl_storeKey, foldl_set_finRange, foldl_markKey] at h

theorem hostRuns_ldIv {r : Regs} (hr : r.pending = none) (b : Block) :
    HostRuns r (ldIv b)
      { r with iv := wordsOf b, status := { r.status with ivw := 0xF } } [] := by
  have h := hostRuns_stores (x := .iv) (fun j => (wordsOf b)[j]) (by decide) hr (List.finRange 4)
  rwa [foldl_storeIv, foldl_set_finRange, foldl_markIv] at h

theorem hostRuns_ldIn {r : Regs} (hr : r.pending = none) (b : Block) :
    HostRuns r (ldIn b) { r with din := wordsOf b } [] := by
  have h := hostRuns_stores (x := .din) (fun j => (wordsOf b)[j]) (by decide) hr (List.finRange 4)
  rwa [foldl_storeDin, foldl_set_finRange] at h

/-! A command and its WAIT (R86, R87, R178). -/

/-- The registers with PENDING at `p`. -/
def withPending (p : Option Word) (r : Regs) : Regs := { r with pending := p }

@[simp] theorem withPending_dout (p : Option Word) (r : Regs) :
    (withPending p r).dout = r.dout := rfl
@[simp] theorem withPending_status (p : Option Word) (r : Regs) :
    (withPending p r).status = r.status := rfl
@[simp] theorem withPending_pending (p : Option Word) (r : Regs) :
    (withPending p r).pending = p := rfl

/-- While the host waits, the engine completes the command, however long it takes: by induction on
the lag, which every read of STATUS lowers. -/
theorem wait_until_complete {i : Instr} (hwf : i.wf = true) {s : State} {q : Regs}
    {rest : List HostEvent} (hp : s.regs.pending = some (encode i)) (o : RegsOutcome s.regs i q)
    (hi : s.inputs = .wait :: rest) :
    ∃ (n : Nat) (t : State), Host.Core.run core n s = .next t ∧ t.regs = withPending none q ∧
      t.inputs = .wait :: rest ∧ doutReads t.reads = doutReads s.reads := by
  induction hl : s.lag generalizing s with
  | zero =>
    obtain ⟨t, ht, hinputs, -, hreads, hregs⟩ := exec_of_regsOutcome_world o
    have hstep : step s = .next (complete t) := by
      simp only [step_engine hp (.inl hl), engineStep, decodeUndoesEncode i hwf, ht]
    refine ⟨1, complete t, run_succ hstep 0, by rw [complete, hregs]; rfl, hinputs.trans hi, ?_⟩
    rw [complete_reads, hreads]
  | succ n ih =>
    have hstep : step s = .next (busRead 4 (takeEvent (.wait :: rest) s)) := by
      rw [step_host hi (.inr (by omega)), hostStep_wait, busy_of_some hp]
      rfl
    obtain ⟨k, t, hrun, hregs, hinputs, hreads⟩ :=
      ih (s := busRead 4 (takeEvent (.wait :: rest) s)) hp o rfl (by simp [hl])
    exact ⟨k + 1, t, (run_succ hstep k).trans hrun, hregs, hinputs,
      hreads.trans ((doutReads_cons _ _).trans (List.append_nil _))⟩

/-- The CMD write, and then the host waits until the command is over. -/
theorem issue_until_complete {i : Instr} (hwf : i.wf = true) {s : State} {q : Regs}
    {rest : List HostEvent} (hidle : s.regs.pending = none)
    (o : RegsOutcome (withPending (some (encode i)) s.regs) i q)
    (hi : s.inputs = issue i ++ rest) :
    ∃ (n : Nat) (t : State), Host.Core.run core n s = .next t ∧ t.regs = withPending none q ∧
      t.inputs = .wait :: rest ∧ doutReads t.reads = doutReads s.reads := by
  have hstep : step s = .next (issueCommand (encode i) (takeEvent (.wait :: rest) s)) := by
    rw [step_host hi (.inl hidle)]
    exact (hostStep_write rfl (by decide) _ _ s).trans (congrArg _
      (busWrite_idle_cmd (s := takeEvent (.wait :: rest) s) (busy_of_none hidle) rfl _))
  obtain ⟨n, t, hrun, hpost⟩ := wait_until_complete hwf
    (s := issueCommand (encode i) (takeEvent (.wait :: rest) s)) rfl o rfl
  exact ⟨n + 1, t, (run_succ hstep n).trans hrun, hpost⟩

theorem hostRuns_issue {i : Instr} (hwf : i.wf = true) {r q : Regs} (hr : r.pending = none)
    (o : RegsOutcome (withPending (some (encode i)) r) i q) :
    HostRuns r (issue i) (withPending none q) [] := by
  refine ⟨rfl, fun s rest hs hi => ?_⟩
  subst hs
  obtain ⟨n, t, hrun, hregs, hinputs, hreads⟩ := issue_until_complete hwf hr o hi
  obtain ⟨n', t', hrun', hregs', hinputs', hreads'⟩ :=
    (hostRuns_waitIdle (r := withPending none q) rfl).2 t rest hregs hinputs
  exact ⟨n + n', t', run_trans hrun hrun', hregs', hinputs', by rw [hreads', hreads]⟩

/-- LDIN, a data command, WAIT and RDOUT: the registers are the command's, and the words read are
its output (R197). -/
theorem hostRuns_sendBlock {i : Instr} (hwf : i.wf = true) {r q : Regs} (hr : r.pending = none)
    (b : Block)
    (o : RegsOutcome (withPending (some (encode i)) { r with din := wordsOf b }) i q) :
    HostRuns r (sendBlock i b) (withPending none q) q.dout.toList :=
  ((hostRuns_ldIn hr b).append (hostRuns_issue hwf (r := { r with din := wordsOf b }) hr o)).append
    (hostRuns_rdOut (r := withPending none q) rfl)

end Sys2Proof.Machine
end

section
/-! SUPPORT. The host procedure of R197: a session as one CBC loop over the blocks that the host
sends, and its last block in either direction (O59, O60). -/

namespace Sys2Proof.Machine

/-! The two directions of CBC as one loop (R171, R172). -/

/-- The block that a data command outputs (R185). -/
def cbcOut (m : Mode) (w : Schedule) (b ch : Block) : Block :=
  match m with
  | .enc => cbcEncStep w b ch
  | .dec => cbcDecStep w b ch

/-- The ciphertext block of a data command, which chains on (R185). -/
def cbcNext (m : Mode) (w : Schedule) (b ch : Block) : Block :=
  match m with
  | .enc => cbcEncStep w b ch
  | .dec => b

/-- The loop of R171 or that of R172, by the mode. -/
def cbcLoop (m : Mode) (w : Schedule) (ch : Block) (bs : List Block) : List Block :=
  match m with
  | .enc => cbcEncrypt w ch bs
  | .dec => cbcDecrypt w ch bs

theorem cbcLoop_nil (m : Mode) (w : Schedule) (ch : Block) : cbcLoop m w ch [] = [] := by
  cases m <;> rfl

theorem cbcLoop_cons (m : Mode) (w : Schedule) (ch b : Block) (bs : List Block) :
    cbcLoop m w ch (b :: bs) = cbcOut m w b ch :: cbcLoop m w (cbcNext m w b ch) bs := by
  cases m <;> rfl

/-- The chaining value that the blocks `bs` leave behind. -/
def chainAfter (m : Mode) (w : Schedule) (ch : Block) (bs : List Block) : Block :=
  bs.foldl (fun ch b => cbcNext m w b ch) ch

theorem cbcLoop_concat (m : Mode) (w : Schedule) (ch : Block) (bs : List Block) (b : Block) :
    cbcLoop m w ch (bs ++ [b]) =
      cbcLoop m w ch bs ++ [cbcOut m w b (chainAfter m w ch bs)] := by
  induction bs generalizing ch with
  | nil => simp only [List.nil_append, cbcLoop_cons, cbcLoop_nil, chainAfter, List.foldl_nil]
  | cons a bs ih =>
    rw [List.cons_append, cbcLoop_cons, cbcLoop_cons, ih, List.cons_append, chainAfter,
      chainAfter, List.foldl_cons]

/-! A session of the core, command by command (R181, R182, R185, R186). -/

/-- The registers of a session of mode `m` with the schedule `w` and the chaining value `ch`. -/
structure InSession (m : Mode) (w : Schedule) (ch : Block) (r : Regs) : Prop where
  active : r.status.active = true
  mode : r.status.mode = m
  schedule : r.w = w
  chain : bytesOf r.chain = ch

/-- A command word in PENDING and a block in DIN leave the session as it is. -/
theorem InSession.withInput {m : Mode} {w : Schedule} {ch : Block} {r : Regs}
    (h : InSession m w ch r) (p : Option Word) (d : Quad) :
    InSession m w ch (withPending p { r with din := d }) := ⟨h.active, h.mode, h.schedule, h.chain⟩

/-- A BLOCK outputs one block of the loop, and the session goes on. -/
theorem InSession.block {m : Mode} {w : Schedule} {b ch : Block} {r : Regs}
    (h : InSession m w ch r) (hb : bytesOf r.din = b) :
    ∃ q, RegsOutcome r .block q ∧ q.dout = wordsOf (cbcOut m w b ch) ∧
      InSession m w (cbcNext m w b ch) q := by
  obtain ⟨ha, hm, rfl, rfl⟩ := h
  subst hb
  cases m with
  | enc => exact ⟨_, .blockEnc _ ha hm rfl, rfl, ha, hm, rfl, bytesOf_wordsOf _⟩
  | dec => exact ⟨_, .blockDec ha hm, rfl, ha, hm, rfl, rfl⟩

/-- An encrypting FINAL outputs the padded block and ends the session. -/
theorem InSession.finalEnc {w : Schedule} {b ch : Block} {r : Regs} (h : InSession .enc w ch r)
    (hb : bytesOf r.din = b) (n : Nat) :
    ∃ q, RegsOutcome r (.final n) q ∧ q.dout = wordsOf (cbcEncStep w (padFinal b n) ch) ∧
      q.status.active = false ∧ q.status.err = .none := by
  obtain ⟨ha, hm, rfl, rfl⟩ := h
  subst hb
  exact ⟨_, .finalEnc _ ha hm rfl, rfl, rfl, rfl⟩

/-- A decrypting FINAL #0 ends the session, with PAD and no output or with the stripped block. -/
theorem InSession.finalDec {w : Schedule} {b ch x : Block} {r : Regs} (h : InSession .dec w ch r)
    (hb : bytesOf r.din = b) (hx : x = cbcDecStep w b ch) :
    ∃ q, RegsOutcome r (.final 0) q ∧ q.status.active = false ∧
      (unpadCheck x = none → q.status.err = .pad ∧ q.dout = Vector.replicate 4 0) ∧
      ∀ k, unpadCheck x = some k →
        q.status.err = .none ∧ bytesOf q.dout = stripPad x k ∧ q.status.outlen.toNat = k := by
  obtain ⟨ha, hm, rfl, rfl⟩ := h
  subst hb
  cases hu : unpadCheck x with
  | none =>
    exact ⟨_, .finalPad ha hm (hx ▸ hu), rfl, fun _ => ⟨rfl, rfl⟩, nofun⟩
  | some k =>
    refine ⟨_, .finalDec x k ha hm hx hu, rfl, nofun, fun _ hk => ?_⟩
    cases hk
    exact ⟨rfl, bytesOf_wordsOf _, outlen_of_unpadCheck hu⟩

/-! A session as the host drives it (R197). -/

/-- The DOUT words of a list of output blocks. -/
def outputWords (bs : List Block) : List Word := bs.flatMap fun b => (wordsOf b).toList

/-- LDKEY, LDIV and a BEGIN open a session, whatever the core held before. -/
theorem hostRuns_begin {i : Instr} {m : Mode} (hb : Begins i m) {r : Regs}
    (hr : r.pending = none) (ha : r.status.active = false) (key : KeyBytes) (iv : Block) :
    ∃ q, HostRuns r (ldKey key ++ ldIv iv ++ issue i) q [] ∧ InSession m (expand key) iv q := by
  have hwf : i.wf = true := by cases hb <;> rfl
  have hload := (hostRuns_ldKey hr key).append
    (hostRuns_ldIv (r := { r with
      key := keyWordsOf key, status := { r.status with keyw := 0xFF } }) hr iv)
  exact ⟨_, hload.append (hostRuns_issue hwf hr (.opened hb ha rfl rfl)), rfl, rfl,
    congrArg expand (keyBytesOf_keyWordsOf key), bytesOf_wordsOf iv⟩

/-- The blocks that the host sends go through the loop one by one. -/
theorem hostRuns_blocks {m : Mode} {w : Schedule} {ch : Block} {r : Regs} (hr : r.pending = none)
    (h : InSession m w ch r) (bs : List Block) :
    ∃ q, HostRuns r (bs.flatMap (sendBlock .block)) q (outputWords (cbcLoop m w ch bs)) ∧
      InSession m w (chainAfter m w ch bs) q := by
  induction bs generalizing ch r with
  | nil => exact ⟨r, by rw [cbcLoop_nil]; exact .nil hr, h⟩
  | cons b bs ih =>
    obtain ⟨q, o, hout, hq⟩ :=
      (h.withInput (some (encode .block)) (wordsOf b)).block (bytesOf_wordsOf b)
    have hblock := hostRuns_sendBlock rfl hr b o
    obtain ⟨u, hblocks, hu⟩ := ih (r := withPending none q) rfl (hq.withInput none q.din)
    rw [hout] at hblock
    exact ⟨u, by rw [cbcLoop_cons]; exact hblock.append hblocks, hu⟩

/-- The host procedure up to its last block. -/
theorem hostRuns_session {i : Instr} {m : Mode} (hb : Begins i m) {r : Regs}
    (hr : r.pending = none) (ha : r.status.active = false) (key : KeyBytes) (iv : Block)
    (bs : List Block) :
    ∃ q, HostRuns r (ldKey key ++ ldIv iv ++ issue i ++ bs.flatMap (sendBlock .block)) q
        (outputWords (cbcLoop m (expand key) iv bs)) ∧
      InSession m (expand key) (chainAfter m (expand key) iv bs) q := by
  obtain ⟨q, hbegin, hq⟩ := hostRuns_begin hb hr ha key iv
  obtain ⟨u, hblocks, hu⟩ := hostRuns_blocks hbegin.1 hq bs
  exact ⟨u, hbegin.append hblocks, hu⟩

/-- A machine that has read nothing and is asked for `es` alone. -/
theorem HostRuns.run {s : State} {es : List HostEvent} {q : Regs} {ws : List Word}
    (h : HostRuns s.regs es q ws) (hi : s.inputs = es) (hreads : s.reads = []) :
    ∃ (n : Nat) (t : State), Host.Core.run core n s = .next t ∧ t.inputs = [] ∧ t.regs = q ∧
      doutReads t.reads = ws := by
  obtain ⟨n, t, hrun, hregs, hinputs, hwords⟩ := h.2 s [] rfl (hi.trans (List.append_nil es).symm)
  exact ⟨n, t, hrun, hinputs, hregs, by rw [hwords, hreads]; rfl⟩

/-- EncryptMessage ends with the padded block under the chaining value that the whole blocks
leave. -/
theorem encryptMessage_eq (key : KeyBytes) (iv : Block) {m : List Byte} {last : Block}
    (h : EndsMessage last m) :
    encryptMessage key iv m = cbcLoop .enc (expand key) iv (blocksOf m) ++
      [cbcEncStep (expand key) (padFinal last (m.length % 16))
        (chainAfter .enc (expand key) iv (blocksOf m))] := by
  rw [encryptMessage, blocksOf_padMessage h]
  exact cbcLoop_concat .enc (expand key) iv (blocksOf m) _

/-- DecryptMessage is the loop on all blocks but the last, and UnpadCheck on what that one gives. -/
theorem decryptMessage_concat (key : KeyBytes) (iv : Block) (cs : List Block) (c : Block) :
    decryptMessage key iv (cs ++ [c]) =
      (unpadCheck (cbcDecStep (expand key) c (chainAfter .dec (expand key) iv cs))).map fun k =>
        bytesOfBlocks (cbcDecrypt (expand key) iv cs) ++
          (cbcDecStep (expand key) c (chainAfter .dec (expand key) iv cs)).toList.take k := by
  have hloop : cbcDecrypt (expand key) iv (cs ++ [c]) = _ :=
    cbcLoop_concat .dec (expand key) iv cs c
  rw [decryptMessage, hloop]
  exact unpadMessage_blocks _ _

/-- Settles O59: the blocks of the session and the padded block of FINAL are the loop of
EncryptMessage on the blocks of the padded message. -/
theorem hostProcedureComputesEncryptMessage : Obligations.HostProcedureComputesEncryptMessage := by
  intro key iv m last s hlast hp ha hreads hi
  have hwf : (Instr.final (m.length % 16)).wf = true := decide_eq_true (by omega)
  obtain ⟨r, hsession, hr⟩ := hostRuns_session .enc hp ha key iv (blocksOf m)
  obtain ⟨q, o, hout, hactive, herr⟩ :=
    (hr.withInput (some (encode (.final (m.length % 16)))) (wordsOf last)).finalEnc
      (bytesOf_wordsOf last) (m.length % 16)
  have hfinal := hostRuns_sendBlock hwf hsession.1 last o
  rw [blocksOf, List.flatMap_map] at hsession
  obtain ⟨n, t, hrun, hinputs, hregs, hwords⟩ := (hsession.append hfinal).run hi hreads
  refine ⟨n, t, hrun, hinputs, ?_, ?_, ?_, ?_⟩
  · rw [hregs, withPending_pending]
  · rw [hregs, withPending_status, hactive]
  · rw [hregs, withPending_status, herr]
  · rw [hwords, hout, encryptMessage_eq key iv hlast, List.flatMap_append, List.flatMap_singleton]
    rfl

/-- Settles O60: the blocks of the session are the loop of DecryptMessage, and FINAL does to the
last block what the unpadding of the whole output does. -/
theorem hostProcedureComputesDecryptMessage : Obligations.HostProcedureComputesDecryptMessage := by
  intro key iv cs c s hp ha hreads hi
  obtain ⟨r, hsession, hr⟩ := hostRuns_session .dec hp ha key iv cs
  obtain ⟨q, o, hactive, hpad, hok⟩ :=
    (hr.withInput (some (encode (.final 0))) (wordsOf c)).finalDec (bytesOf_wordsOf c) rfl
  have hfinal := hostRuns_sendBlock rfl hsession.1 c o
  obtain ⟨n, t, hrun, hinputs, hregs, hwords⟩ := (hsession.append hfinal).run hi hreads
  refine ⟨n, t, cbcDecrypt (expand key) iv cs, hrun, hinputs, ?_, ?_, cbcDecrypt_length _ _ _, ?_,
    fun hnone => ?_, fun m hsome => ?_⟩
  · rw [hregs, withPending_pending]
  · rw [hregs, withPending_status, hactive]
  · rw [hwords, hregs, withPending_dout]
    rfl
  · rw [decryptMessage_concat, Option.map_eq_none_iff] at hnone
    rw [hregs, withPending_status, withPending_dout]
    exact hpad hnone
  · rw [decryptMessage_concat, Option.map_eq_some_iff] at hsome
    obtain ⟨k, hk, rfl⟩ := hsome
    obtain ⟨herr, hdout, houtlen⟩ := hok k hk
    rw [hregs, withPending_status, withPending_dout, hdout, houtlen, stripPad_take]
    exact ⟨herr, rfl⟩

end Sys2Proof.Machine
end

section
/-! SUPPORT. An error changes nothing but ERR or ends the session (O37), and a session that opens keeps
nothing of the past (O43). -/

namespace Sys2Proof.Machine

@[simp] theorem blockRegs_err (r : Regs) : (blockRegs r).status.err = .none := by
  obtain ⟨y, ch, e⟩ := blockRegs_shape r
  rw [e]
  rfl

@[simp] theorem finalEncRegs_err (n : Nat) (r : Regs) : (finalEncRegs n r).status.err = .none := rfl

theorem finalDecRegs_err (r : Regs) :
    (finalDecRegs r).status.err = .none ∨ (finalDecRegs r).status.err = .pad := by
  rcases finalDecRegs_cases r with ⟨-, e⟩ | ⟨k, -, e⟩ <;> rw [e]
  · exact .inr rfl
  · exact .inl rfl

/-- SEQ, KEY_LEN and IV_LEN "change nothing but ERR", in the whole machine (R232). -/
theorem CommandOutcome.eq_setErr {s t : State} {i : Instr} (o : CommandOutcome s i t)
    (he : t.regs.status.err = .seq ∨ t.regs.status.err = .keyLen ∨ t.regs.status.err = .ivLen) :
    t = onRegs (setErr t.regs.status.err) s := by
  cases o with
  | beginSeq | beginKeyLen | beginIvLen | noSession => rfl
  | nop | opened | block | finalEnc | finalBlockLen | abort => simp at he
  | finalDec =>
    rw [onRegsDrawing_regs] at he
    rcases finalDecRegs_err s.regs with e | e <;> simp [e] at he
  | clear => simp [Status.reset] at he

/-- BLOCK_LEN and PAD perform EndSessionClear and set ERR (R220, R232). -/
theorem RegsOutcome.eq_endSessionClear {r q : Regs} {i : Instr} (o : RegsOutcome r i q)
    (he : q.status.err = .blockLen ∨ q.status.err = .pad) :
    q = setErr q.status.err (endSessionClear r) := by
  cases o with
  | finalBlockLen | finalPad => rfl
  | clear => simp [Status.reset] at he
  | _ => simp at he

/-- CMD belongs to the illegal words, and they are no commands (R225). -/
theorem RegsOutcome.err_ne_cmd {r q : Regs} {i : Instr} (o : RegsOutcome r i q) :
    q.status.err ≠ .cmd := by
  cases o with
  | clear => simp [Status.reset]
  | _ => simp

/-- Settles O37: the two kinds of error, told apart outcome by outcome. -/
theorem errorsAreAllOrNothing : Obligations.ErrorsAreAllOrNothing := fun _ _ _ h =>
  ⟨(exec_outcome h).eq_setErr, (exec_regs h).eq_endSessionClear, (exec_regs h).err_ne_cmd⟩

/-- A BEGIN that reports no error found no session and a complete key and IV (R181, R182). -/
theorem RegsOutcome.opened_of_begin {r q : Regs} {i : Instr} (o : RegsOutcome r i q)
    (hi : i = .beginEnc ∨ i = .beginDec) (he : q.status.err = .none) :
    ∃ m, Begins i m ∧ r.status.keyw = 0xFF ∧ r.status.ivw = 0xF ∧ q = openSession m r := by
  cases o with
  | opened hb _ hk hv => exact ⟨_, hb, hk, hv, rfl⟩
  | beginSeq | beginKeyLen | beginIvLen => simp at he
  | noSession hn => cases hn <;> simp at hi
  | _ => simp at hi

/-- The opening of a session reads what the host has written, PENDING and OVR, and no other
register. -/
theorem openSession_congr (m : Mode) {r q : Regs} (h : SameHostSide r q) :
    openSession m q = openSession m r := by
  obtain ⟨hkey, hiv, hdin, hpending, hkeyw, hivw, hovr⟩ := h
  simp [openSession, clearOutput, statusOpen, statusNoOutput, *]

/-- The registers after reset with the KEY, IV and DIN of `r` written, PENDING and OVR as in `r`. -/
def resetAndLoaded (r : Regs) : Regs :=
  { Regs.reset with
    key := r.key, iv := r.iv, din := r.din, pending := r.pending,
    status := { Status.reset with keyw := 0xFF, ivw := 0xF, ovr := r.status.ovr } }

theorem sameHostSide_resetAndLoaded {r : Regs} (hk : r.status.keyw = 0xFF)
    (hv : r.status.ivw = 0xF) : SameHostSide r (resetAndLoaded r) :=
  ⟨rfl, rfl, rfl, rfl, hk.symm, hv.symm, rfl⟩

/-- Settles O43: after reset and the same writes the command opens the session too, and the opening
reads nothing else of the registers. -/
theorem newSessionForgetsThePast : Obligations.NewSessionForgetsThePast := by
  intro i s t hi h he
  obtain ⟨m, hb, hk, hv, hregs⟩ := (exec_regs h).opened_of_begin hi he
  obtain ⟨t', ht', hregs'⟩ := exec_of_regsOutcome
    (s := { State.reset with regs := resetAndLoaded s.regs }) (.opened hb rfl rfl rfl)
  refine ⟨t', ht', ?_⟩
  rw [hregs', hregs]
  exact openSession_congr m (sameHostSide_resetAndLoaded hk hv)

end Sys2Proof.Machine
end

section
/-! SUPPORT. A running session does not see KEY and IV (O41), and what a reset leaves (O53). -/

namespace Sys2Proof.Machine

/-- The registers with KEY at `k` and IV at `v`. -/
def withKeyIv (k : KeyWords) (v : Quad) (r : Regs) : Regs := { r with key := k, iv := v }

/-- No outcome of BLOCK or FINAL depends on KEY and IV: W and CHAIN hold what the session took from
them (R22, R23, R259). -/
theorem RegsOutcome.map_withKeyIv {r q : Regs} {i : Instr} (o : RegsOutcome r i q)
    (hn : NeedsSession i) (k : KeyWords) (v : Quad) :
    RegsOutcome (withKeyIv k v r) i (withKeyIv k v q) := by
  cases o with
  | beginSeq hb | beginKeyLen hb | beginIvLen hb | opened hb => cases hb <;> cases hn
  | noSession _ ha => exact .noSession hn ha
  | blockEnc y ha hm hy => exact .blockEnc y ha hm hy
  | blockDec ha hm => exact .blockDec ha hm
  | finalEnc y ha hm hy => exact .finalEnc y ha hm hy
  | finalBlockLen ha hm hz => exact .finalBlockLen ha hm hz
  | finalPad ha hm hp => exact .finalPad ha hm hp
  | finalDec y j ha hm hy hj => exact .finalDec y j ha hm hy hj
  | nop | abort | clear => cases hn

/-- Settles O41: an outcome of BLOCK or FINAL stays one with another KEY and IV in the registers. -/
theorem keyAndIvWritesDoNotReachTheSession : Obligations.KeyAndIvWritesDoNotReachTheSession := by
  intro i s t k v hi h
  have hn : NeedsSession i := by
    rcases hi with rfl | ⟨n, rfl⟩
    · exact .block
    · exact .final n
  exact exec_of_regsOutcome (s := { s with regs := withKeyIv k v s.regs })
    ((exec_regs h).map_withKeyIv hn k v)

/-- Every register of the window reads 0 after reset (R45, R59). -/
@[simp] theorem idleRead_reset (off : Nat) : idleRead Regs.reset off = 0 := by
  unfold idleRead
  cases winReg off with
  | cmd | status | blkcnt | key | reserved => rfl
  | iv | din | dout | chain => simp [Regs.reset]

/-- Settles O53: power-on and the reset input leave `Regs.reset`, in which no key word has been
written, so a BEGIN stops at KEY_LEN. -/
theorem resetPutsEveryRegisterToZero : Obligations.ResetPutsEveryRegisterToZero := by
  refine ⟨?_, fun s rest ht => ?_, fun i s hi hs => ?_⟩
  · rintro r rfl
    exact ⟨rfl, rfl, rfl, rfl, rfl, rfl, rfl, rfl, rfl, rfl, rfl, rfl, fun off _ _ =>
      idleRead_reset off⟩
  · exact ⟨_, step_host ht.1 ht.2, rfl, rfl, rfl⟩
  · obtain ⟨m, hb⟩ : ∃ m, Begins i m := by
      rcases hi with rfl | rfl
      · exact ⟨_, .enc⟩
      · exact ⟨_, .dec⟩
    have o : RegsOutcome s.regs i (setErr .keyLen s.regs) := by
      rw [hs]
      exact .beginKeyLen hb rfl (by decide)
    obtain ⟨t, ht, hr⟩ := exec_of_regsOutcome o
    exact ⟨t, ht, by rw [hr]; rfl, by rw [hr, hs]; rfl⟩

end Sys2Proof.Machine
end
